-- ==== Sys2Proof/Word.lean ====
section
/-! DEFINITION. The one word type of the block: an unsigned 8-bit byte (00_scope.md R7). -/

namespace Sys2Proof

/-- A byte, 0 to 255; bit 7 is the most significant (20_memory.md R37). -/
abbrev Byte := BitVec 8

end Sys2Proof
end

