-- ==== Sys2Proof/Config.lean ====
section
/-! DEFINITION. The implementation parameters of 00_scope.md R5. The four the wire format fixes are constants;
the open parameter `MAX_LEN` (92_eei_decisions.md D5) is a field of `Config`, carried by the state, so that every
statement about a state is a statement for every `MAX_LEN`. -/

namespace Sys2Proof

/-- `PREAMBLE`: the preamble marker byte, ASCII `'U'` (R5). -/
def preamble : Byte := 0x55

/-- `PRE_THRESH`: the count of consecutive preamble bytes at which IDLE moves to SYNC (R5, 90_conflicts.md C3). -/
def preThresh : Nat := 16

/-- `HOLD_INIT`: the hold-budget armed on entry to SYNC, in bytes (R5). -/
def holdInit : Nat := 16

/-- `TYPE_MDMF`: the message-type marker byte (R5). -/
def typeMdmf : Byte := 0x80

/-- What one instance of the block is built with: `MAX_LEN`, the greatest Length READING_LENGTH accepts (R5). -/
structure Config where
  maxLen : Nat
deriving DecidableEq, Repr

/-- The default of R5: `MAX_LEN` = 255. -/
def Config.default : Config := { maxLen := 255 }

/-- The range R5 gives `MAX_LEN`: 1 to 255. -/
abbrev Config.Wf (c : Config) : Prop := 1 ≤ c.maxLen ∧ c.maxLen ≤ 255

/-- `BUF_SIZE` = `MAX_LEN + 3` (R5). -/
def Config.bufSize (c : Config) : Nat := c.maxLen + 3

/-- `FIELD_CAP` = `MAX_LEN - 2` (R5): no record field is longer. DESIGN CHOICE: at `MAX_LEN` = 1, where the spec gives the
difference no value, it is 0 (notes/assumptions/22.md). -/
def Config.fieldCap (c : Config) : Nat := c.maxLen - 2

end Sys2Proof
end

