-- ==== Sys2Proof/Syntax.lean ====
section
/-! DEFINITION. The instructions: one constructor per row of spec/opcode_table.json. -/

namespace Sys2Proof

/-- The synchronizer state value `st` (10_state.md R11): five values and no others. -/
inductive SyncState where
  | idle
  | sync
  | readingLength
  | readingData
  | readingChecksum
deriving DecidableEq, Repr

/-- An instruction of the block (00_scope.md R8): a byte of one class of a synchronizer state (30_encoding.md R51),
the header of a TLV field (R52), or a whole message (R46). A class with one byte value carries no operand. -/
inductive Instr where
  /-- `IDLE.PRE`: in IDLE, the byte 0x55 (R61). -/
  | idlePre
  /-- `IDLE.OTHER`: in IDLE, any other byte (R62). -/
  | idleOther (b : Byte)
  /-- `SYNC.TYPE`: in SYNC, the byte 0x80 (R63). -/
  | syncType
  /-- `SYNC.OTHER`: in SYNC, any other byte (R64). -/
  | syncOther (b : Byte)
  /-- `LEN.ZERO`: in READING_LENGTH, the byte 0 (R65). -/
  | lenZero
  /-- `LEN.OVER`: in READING_LENGTH, a byte above `MAX_LEN` (R66). -/
  | lenOver (b : Byte)
  /-- `LEN.OK`: in READING_LENGTH, a byte from 1 to `MAX_LEN` (R67). -/
  | lenOk (b : Byte)
  /-- `DATA`: in READING_DATA, any byte (R68). -/
  | data (b : Byte)
  /-- `CKSUM`: in READING_CHECKSUM, any byte (R69). -/
  | cksum (b : Byte)
  /-- `TLV.TIME`: tag 0x01 and its Len (R92). -/
  | tlvTime (n : Byte)
  /-- `TLV.NUMBER`: tag 0x02 and its Len (R93). -/
  | tlvNumber (n : Byte)
  /-- `TLV.DN`: tag 0x03 and its Len (R94). -/
  | tlvDn (n : Byte)
  /-- `TLV.NUMBER_ABSENT`: tag 0x04 and its Len (R95). -/
  | tlvNumberAbsent (n : Byte)
  /-- `TLV.REDIR`: tag 0x05 and its Len (R96). -/
  | tlvRedir (n : Byte)
  /-- `TLV.QUALIFIER`: tag 0x06 and its Len (R97). -/
  | tlvQualifier (n : Byte)
  /-- `TLV.NAME`: tag 0x07 and its Len (R98). -/
  | tlvName (n : Byte)
  /-- `TLV.NAME_ABSENT`: tag 0x08 and its Len (R99). -/
  | tlvNameAbsent (n : Byte)
  /-- `TLV.MWI`: tag 0x0B and its Len (R101). -/
  | tlvMwi (n : Byte)
  /-- `TLV.OTHER`: any tag the rows above do not name, and its Len (R102). -/
  | tlvOther (tag : Byte) (n : Byte)
  /-- `MDMF.FRAME`: a whole message, its payload and its checksum byte; its Length byte is the payload's length (R46). -/
  | mdmfFrame (payload : List Byte) (ck : Byte)
deriving DecidableEq, Repr

end Sys2Proof
end

