-- ==== Sys2Proof/WellFormed.lean ====
section
/-! DEFINITION. Which instructions the encoding has: the byte conditions of 30_encoding.md R51, the tag set of R52
and the Length range of R46. -/

namespace Sys2Proof

/-- The nine tags R52 names; every other tag is `TLV.OTHER`'s. -/
def isNamedTag (tag : Byte) : Bool :=
  (1 ≤ tag.toNat && tag.toNat ≤ 8) || tag == 0x0B

/-- The instruction is one its row of R51, R52 or R46 admits, at this `MAX_LEN`. -/
def Instr.wf (cfg : Config) : Instr → Bool
  | .idlePre => true
  | .idleOther b => b != preamble
  | .syncType => true
  | .syncOther b => b != typeMdmf
  | .lenZero => true
  | .lenOver b => decide (cfg.maxLen < b.toNat)
  | .lenOk b => decide (1 ≤ b.toNat) && decide (b.toNat ≤ cfg.maxLen)
  | .data _ => true
  | .cksum _ => true
  | .tlvTime _ => true
  | .tlvNumber _ => true
  | .tlvDn _ => true
  | .tlvNumberAbsent _ => true
  | .tlvRedir _ => true
  | .tlvQualifier _ => true
  | .tlvName _ => true
  | .tlvNameAbsent _ => true
  | .tlvMwi _ => true
  | .tlvOther tag _ => !isNamedTag tag
  | .mdmfFrame p _ => decide (1 ≤ p.length) && decide (p.length ≤ cfg.maxLen)

end Sys2Proof
end

