-- ==== Sys2Proof/Decode.lean ====
section
/-! DEFINITION. The decoder and the encoder of 30_encoding.md, and the opcode table as data (R56). What a byte means
depends on where it is read, so the decoder takes the context beside the bytes. -/

namespace Sys2Proof

/-- Where the bytes are read (R56): as the next input byte in a synchronizer state, as the unread rest of a payload
inside the decoder, or as a whole message. -/
inductive Context where
  | sync (st : SyncState)
  | field
  | message
deriving DecidableEq, Repr

/-- Why bytes are not an instruction, by name. -/
inductive Reject where
  /-- No byte is there to be read. -/
  | noByte
  /-- Fewer than 3 payload bytes are left: padding, not a field (42_mdmf_decoder.md R87). -/
  | padding
  /-- A message's first byte is not 0x80 (R53). -/
  | badType (b : Byte)
  /-- A message's Length is 0 (R53). -/
  | zeroLength
  /-- A message's Length is above `MAX_LEN` (R53). -/
  | lengthOver (b : Byte)
  /-- Fewer bytes are there than the message's Length and checksum need (R46). -/
  | cutShort
deriving DecidableEq, Repr

/-- R51: the class of an input byte in each synchronizer state. -/
def decodeByte (cfg : Config) (st : SyncState) (b : Byte) : Instr :=
  match st with
  | .idle => if b = preamble then .idlePre else .idleOther b
  | .sync => if b = typeMdmf then .syncType else .syncOther b
  | .readingLength =>
    if b = 0x00 then .lenZero else if cfg.maxLen < b.toNat then .lenOver b else .lenOk b
  | .readingData => .data b
  | .readingChecksum => .cksum b

/-- R52: what the tag byte of a field selects; `n` is the field's Len byte. -/
def decodeTag (tag n : Byte) : Instr :=
  if tag = 0x01 then .tlvTime n
  else if tag = 0x02 then .tlvNumber n
  else if tag = 0x03 then .tlvDn n
  else if tag = 0x04 then .tlvNumberAbsent n
  else if tag = 0x05 then .tlvRedir n
  else if tag = 0x06 then .tlvQualifier n
  else if tag = 0x07 then .tlvName n
  else if tag = 0x08 then .tlvNameAbsent n
  else if tag = 0x0B then .tlvMwi n
  else .tlvOther tag n

/-- R46: a whole message at the front of `bs`. -/
def decodeMessage (cfg : Config) (bs : List Byte) : Except Reject (Instr × List Byte) :=
  match bs with
  | [] => .error .noByte
  | t :: bs1 =>
    if t = typeMdmf then
      match bs1 with
      | [] => .error .noByte
      | l :: bs2 =>
        if l = 0x00 then .error .zeroLength
        else if cfg.maxLen < l.toNat then .error (.lengthOver l)
        else
          match bs2.drop l.toNat with
          | [] => .error .cutShort
          | ck :: rest => .ok (.mdmfFrame (bs2.take l.toNat) ck, rest)
    else .error (.badType t)

/-- The decoder: one instruction from the front of `bs` and the bytes after it, or a rejection by name. Inside the
decoder a header is read only where more than 2 payload bytes are left (R86), and the field's value stays in the rest. -/
def decode (cfg : Config) (ctx : Context) (bs : List Byte) : Except Reject (Instr × List Byte) :=
  match ctx with
  | .sync st =>
    match bs with
    | [] => .error .noByte
    | b :: rest => .ok (decodeByte cfg st b, rest)
  | .field =>
    match bs with
    | tag :: n :: v :: rest => .ok (decodeTag tag n, v :: rest)
    | _ => .error .padding
  | .message => decodeMessage cfg bs

/-- Where an instruction is read. -/
def Instr.context : Instr → Context
  | .idlePre => .sync .idle
  | .idleOther _ => .sync .idle
  | .syncType => .sync .sync
  | .syncOther _ => .sync .sync
  | .lenZero => .sync .readingLength
  | .lenOver _ => .sync .readingLength
  | .lenOk _ => .sync .readingLength
  | .data _ => .sync .readingData
  | .cksum _ => .sync .readingChecksum
  | .tlvTime _ => .field
  | .tlvNumber _ => .field
  | .tlvDn _ => .field
  | .tlvNumberAbsent _ => .field
  | .tlvRedir _ => .field
  | .tlvQualifier _ => .field
  | .tlvName _ => .field
  | .tlvNameAbsent _ => .field
  | .tlvMwi _ => .field
  | .tlvOther _ _ => .field
  | .mdmfFrame _ _ => .message

/-- The encoder: the byte of a class (R51), the two header bytes of a field (R47, R52), the bytes of a message (R46). -/
def encode : Instr → List Byte
  | .idlePre => [preamble]
  | .idleOther b => [b]
  | .syncType => [typeMdmf]
  | .syncOther b => [b]
  | .lenZero => [0x00]
  | .lenOver b => [b]
  | .lenOk b => [b]
  | .data b => [b]
  | .cksum b => [b]
  | .tlvTime n => [0x01, n]
  | .tlvNumber n => [0x02, n]
  | .tlvDn n => [0x03, n]
  | .tlvNumberAbsent n => [0x04, n]
  | .tlvRedir n => [0x05, n]
  | .tlvQualifier n => [0x06, n]
  | .tlvName n => [0x07, n]
  | .tlvNameAbsent n => [0x08, n]
  | .tlvMwi n => [0x0B, n]
  | .tlvOther tag n => [tag, n]
  | .mdmfFrame p ck => typeMdmf :: BitVec.ofNat 8 p.length :: (p ++ [ck])

/-- The mnemonic of the instruction's row, letter for letter (R51, R52, R56). -/
def Instr.mnemonic : Instr → String
  | .idlePre => "IDLE.PRE"
  | .idleOther _ => "IDLE.OTHER"
  | .syncType => "SYNC.TYPE"
  | .syncOther _ => "SYNC.OTHER"
  | .lenZero => "LEN.ZERO"
  | .lenOver _ => "LEN.OVER"
  | .lenOk _ => "LEN.OK"
  | .data _ => "DATA"
  | .cksum _ => "CKSUM"
  | .tlvTime _ => "TLV.TIME"
  | .tlvNumber _ => "TLV.NUMBER"
  | .tlvDn _ => "TLV.DN"
  | .tlvNumberAbsent _ => "TLV.NUMBER_ABSENT"
  | .tlvRedir _ => "TLV.REDIR"
  | .tlvQualifier _ => "TLV.QUALIFIER"
  | .tlvName _ => "TLV.NAME"
  | .tlvNameAbsent _ => "TLV.NAME_ABSENT"
  | .tlvMwi _ => "TLV.MWI"
  | .tlvOther _ _ => "TLV.OTHER"
  | .mdmfFrame _ _ => "MDMF.FRAME"

/-- The `fields.cond` of a row (R56): a range of byte values that match and mask cannot express. -/
inductive RowCond where
  | always
  | aboveMaxLen
  | inLengthRange
deriving DecidableEq, Repr

/-- One row of the opcode table (R56). -/
structure Row where
  mnemonic : String
  ctx : Context
  pattern : Byte
  mask : Byte
  priority : Nat
  cond : RowCond
deriving DecidableEq, Repr

/-- The nine `SYNC_BYTE` rows of the table. -/
def syncRows : List Row :=
  [⟨"IDLE.PRE", .sync .idle, 0x55, 0xFF, 1, .always⟩,
   ⟨"IDLE.OTHER", .sync .idle, 0x00, 0x00, 2, .always⟩,
   ⟨"SYNC.TYPE", .sync .sync, 0x80, 0xFF, 1, .always⟩,
   ⟨"SYNC.OTHER", .sync .sync, 0x00, 0x00, 2, .always⟩,
   ⟨"LEN.ZERO", .sync .readingLength, 0x00, 0xFF, 1, .always⟩,
   ⟨"LEN.OVER", .sync .readingLength, 0x00, 0x00, 2, .aboveMaxLen⟩,
   ⟨"LEN.OK", .sync .readingLength, 0x00, 0x00, 3, .inLengthRange⟩,
   ⟨"DATA", .sync .readingData, 0x00, 0x00, 1, .always⟩,
   ⟨"CKSUM", .sync .readingChecksum, 0x00, 0x00, 1, .always⟩]

/-- The ten `TLV` rows of the table. -/
def tlvRows : List Row :=
  [⟨"TLV.TIME", .field, 0x01, 0xFF, 1, .always⟩,
   ⟨"TLV.NUMBER", .field, 0x02, 0xFF, 1, .always⟩,
   ⟨"TLV.DN", .field, 0x03, 0xFF, 1, .always⟩,
   ⟨"TLV.NUMBER_ABSENT", .field, 0x04, 0xFF, 1, .always⟩,
   ⟨"TLV.REDIR", .field, 0x05, 0xFF, 1, .always⟩,
   ⟨"TLV.QUALIFIER", .field, 0x06, 0xFF, 1, .always⟩,
   ⟨"TLV.NAME", .field, 0x07, 0xFF, 1, .always⟩,
   ⟨"TLV.NAME_ABSENT", .field, 0x08, 0xFF, 1, .always⟩,
   ⟨"TLV.MWI", .field, 0x0B, 0xFF, 1, .always⟩,
   ⟨"TLV.OTHER", .field, 0x00, 0x00, 2, .always⟩]

/-- The opcode table: twenty rows (R56). The `FRAME` row's match and mask apply to byte 0 of the message only. -/
def opcodeTable : List Row :=
  syncRows ++ tlvRows ++ [⟨"MDMF.FRAME", .message, 0x80, 0xFF, 1, .always⟩]

/-- Whether a row's condition holds of the byte. -/
def RowCond.holds (cfg : Config) (b : Byte) : RowCond → Bool
  | .always => true
  | .aboveMaxLen => decide (cfg.maxLen < b.toNat)
  | .inLengthRange => decide (1 ≤ b.toNat) && decide (b.toNat ≤ cfg.maxLen)

/-- Whether a row applies to the byte in the context: `b AND mask = match`, and the row's condition (R56). -/
def Row.applies (cfg : Config) (ctx : Context) (b : Byte) (r : Row) : Bool :=
  decide (r.ctx = ctx) && (b &&& r.mask == r.pattern) && r.cond.holds cfg b

/-- The row with the lowest priority number, the first of them where two share it. -/
def firstByPriority : List Row → Option Row
  | [] => none
  | r :: rs =>
    match firstByPriority rs with
    | none => some r
    | some q => if q.priority < r.priority then some q else some r

/-- R56's decoder written from the table alone: the mnemonic of the row that applies. -/
def tableSelect (cfg : Config) (ctx : Context) (b : Byte) : Option String :=
  (firstByPriority (opcodeTable.filter (Row.applies cfg ctx b))).map Row.mnemonic

/-- The bytes of a table word: bits 7..0 are the first byte, a later byte's bits count on from it. -/
def wordBytes : Nat → Nat → List Byte
  | 0, _ => []
  | k + 1, w => BitVec.ofNat 8 w :: wordBytes k (w / 256)

/-- The context a byte is read in where the table gives no state with it: that of the row which fixes all its
bits, the synchronizer's rows before the decoder's; for a byte no row fixes, IDLE (notes/assumptions/9.md). -/
def tableContext (b : Byte) : Context :=
  if b = preamble then .sync .idle
  else if b = typeMdmf then .sync .sync
  else if b = 0x00 then .sync .readingLength
  else if isNamedTag b then .field
  else .sync .idle

/-- The instruction whose bits are `w` in the numbering of the opcode table. A word that spells a whole message, no
byte more, is that message; otherwise the first byte decides, in the context `tableContext` gives it, and a field's
Len is the second byte (0 where the word has none). -/
def decodeTableWord (nbits w : Nat) : Option Instr :=
  let bs := wordBytes ((nbits + 7) / 8) w
  match decode Config.default .message bs with
  | .ok (i, []) => some i
  | _ =>
    match bs with
    | [] => none
    | b :: rest =>
      match tableContext b with
      | .sync st => some (decodeByte Config.default st b)
      | .field => some (decodeTag b (rest.headD 0x00))
      | .message => none

end Sys2Proof
end

