-- ==== Sys2Proof/Machine/State.lean ====
section
/-! DEFINITION. The state of one instance of the block (10_state.md R10, R21, R22), its inputs and outputs (R20, R23,
R24), the conditions (60_exceptions.md R110) and the reasons a step can stop. Plain data throughout. -/

namespace Sys2Proof.Machine

open Sys2Proof

/-- The reassembly buffer `buf` as a list of cells, addresses strictly rising; an address not listed holds no value
(R29, 20_memory.md R35). -/
abbrev Memory := List Host.Cell

/-- A CallRecord: three texts, each a list of bytes; the empty text is "absent" (R22). -/
structure CallRecord where
  time : List Byte
  number : List Byte
  name : List Byte
deriving DecidableEq, Repr

/-- The record "created fresh per decoded message": three empty texts (R22). -/
def CallRecord.empty : CallRecord := { time := [], number := [], name := [] }

/-- The `err` output: `ERR_NONE`, `ERR_CHECKSUM`, `ERR_DECODE` (R24). -/
inductive Err where
  | none
  | checksum
  | decode
deriving DecidableEq, Repr

/-- A trace item (60_exceptions.md R112); every argument is 8 bits wide. -/
inductive TraceItem where
  /-- `T_SYNC_ACQ` -/
  | syncAcq
  /-- `T_SYNC_LOST` -/
  | syncLost
  /-- `T_TYPE` -/
  | typeByte
  /-- `T_LEN_REJECT(b)` -/
  | lenReject (b : Byte)
  /-- `T_CKS_BAD(s)` -/
  | cksBad (s : Byte)
  /-- `T_CKS_OK` -/
  | cksOk
  /-- `T_FIELD(tag, n)` -/
  | field (tag n : Byte)
  /-- `T_DECODE_ERR(tag, n, rem)` -/
  | decodeErr (tag n rem : Byte)
  /-- `T_RECORD` -/
  | recordOut
deriving DecidableEq, Repr

/-- The output `Out = (rec, err, trace)` of one step (R24). -/
structure Out where
  record : Option CallRecord
  err : Err
  trace : List TraceItem
deriving DecidableEq, Repr

/-- The idle value `(none, ERR_NONE, [])` (R24). -/
def Out.idle : Out := { record := none, err := .none, trace := [] }

/-- The four conditions (60_exceptions.md R110), each with what its report needs. -/
inductive Condition where
  | syncLost
  | lengthRejected (b : Byte)
  | checksumFailure (s : Byte)
  | decodeError (tag n rem : Byte)
deriving DecidableEq, Repr

/-- What the host drives on the input pins in one clock cycle (R20, R23, R29). -/
structure Cycle where
  rst : Bool
  verbose : Bool
  inValid : Bool
  inByte : Byte
deriving DecidableEq, Repr

/-- The decoder's working values (R21) and the record under construction (R22). -/
structure Walk where
  cur : Nat
  rem : Nat
  tag : Byte
  n : Byte
  record : CallRecord
deriving DecidableEq, Repr

/-- The state. `st`, `run`, `hold`, `remain`, `wr`, `len`, `buf` are R10's tuple. `walk` holds the decoder's working
values while a payload is being walked; between steps there are none (R21). `cfg` is the block's parameter, `verbose`
the level sampled in this cycle (R20), `input` the cycles the host has yet to present (R23), `out` the output of the
step just made (R24). -/
structure State where
  cfg : Config
  st : SyncState
  run : Nat
  hold : Nat
  remain : Nat
  wr : Nat
  len : Nat
  buf : Memory
  walk : Option Walk
  verbose : Bool
  input : List Cycle
  out : Out
deriving DecidableEq, Repr

/-- The reasons a step can stop with a fault. None of them is the spec's (60_exceptions.md R119): each marks an
access the spec says no reachable step makes, so each is safe. -/
inductive Fault where
  /-- Raised by the store primitive where `wr` is `BUF_SIZE` or more (20_memory.md R32, R43). Safe. -/
  | storeOutsideBuffer
  /-- Raised by a read at an address of `BUF_SIZE` or more (R30). Safe. -/
  | readOutsideBuffer
  /-- Raised by a read of a cell nothing has written since reset (R35, 93_implementation_defined.md U9). Safe. -/
  | unwrittenCell
  /-- Raised by a decoder read of `P[i]` with `i >= len` (R33). Safe. -/
  | readOutsidePayload
  /-- Raised by a field's instruction where no payload is being walked: the working values it names do not exist
  (R21). Safe. -/
  | decoderNotRunning
deriving DecidableEq, Repr

/-- The reasons an instruction is refused. -/
inductive Refusal where
  /-- Raised by exec's arm of an instruction that has no meaning yet; no arm does. Safe. -/
  | notModelled (mnemonic : String)
deriving DecidableEq, Repr

/-- The state right after reset (R29): IDLE, every counter 0, no cell of `buf` with a value, the outputs idle, the
decoder's working values not existing. `MAX_LEN` is at its default, no input has been presented, and the level of
`verbose` is the model's choice (notes/assumptions/1.md, 2.md, 11.md). -/
def State.reset : State :=
  { cfg := Config.default, st := .idle, run := 0, hold := 0, remain := 0, wr := 0, len := 0, buf := [],
    walk := none, verbose := false, input := [], out := Out.idle }

end Sys2Proof.Machine
end

