-- ==== Sys2Proof/Machine/Flags.lean ====
section
/-! DEFINITION. The outputs of a step, the block's only flags (10_state.md R24, R27): how a step writes them, what
each condition reports (60_exceptions.md R110), and the port codes. -/

namespace Sys2Proof.Machine

open Sys2Proof

/-- Add an item to the trace; the trace stays empty where `verbose` is 0 (R24, R112). -/
def Out.emit (verbose : Bool) (t : TraceItem) (o : Out) : Out :=
  { o with trace := if verbose then o.trace ++ [t] else o.trace }

/-- Begin a step: the output is the idle value unless a rule says otherwise (40_synchronizer.md R60). -/
def State.clearOut (s : State) : State := { s with out := Out.idle }

/-- Add an item to the step's trace under the state's `verbose`. -/
def State.emit (t : TraceItem) (s : State) : State := { s with out := s.out.emit s.verbose t }

/-- `err <- e`. -/
def State.setErr (e : Err) (s : State) : State := { s with out := { s.out with err := e } }

/-- `rec <- r`. -/
def State.setRecord (r : CallRecord) (s : State) : State := { s with out := { s.out with record := some r } }

/-- The `err` value of a condition (R110); not gated by `verbose`. -/
def Condition.err : Condition → Err
  | .syncLost => .none
  | .lengthRejected _ => .none
  | .checksumFailure _ => .checksum
  | .decodeError _ _ _ => .decode

/-- The trace item of a condition (R110). -/
def Condition.item : Condition → TraceItem
  | .syncLost => .syncLost
  | .lengthRejected b => .lenReject b
  | .checksumFailure s => .cksBad s
  | .decodeError tag n rem => .decodeErr tag n rem

/-- The code of `st` (R11). -/
def stCode : SyncState → BitVec 3
  | .idle => 0
  | .sync => 1
  | .readingLength => 2
  | .readingData => 3
  | .readingChecksum => 4

/-- The code on `err` (R24). -/
def errCode : Err → BitVec 2
  | .none => 0
  | .checksum => 1
  | .decode => 2

/-- The code of a trace item (60_exceptions.md R112). -/
def traceCode : TraceItem → Nat
  | .syncAcq => 1
  | .syncLost => 2
  | .typeByte => 3
  | .lenReject _ => 4
  | .cksBad _ => 5
  | .cksOk => 6
  | .field _ _ => 7
  | .decodeErr _ _ _ => 8
  | .recordOut => 9

/-- `rec_valid` (R24). -/
def Out.recValid (o : Out) : Bool := o.record.isSome

/-- A record field as the port carries it: its length in 8 bits and its bytes (R24). -/
def fieldPort (v : List Byte) : Byte × List Byte := (BitVec.ofNat 8 v.length, v)

end Sys2Proof.Machine
end

