-- ==== Sys2Proof/Machine/Ops.lean ====
section
/-! DEFINITION. The named operations over the buffer and the counters: reading and writing a cell, the store
primitive (20_memory.md R32), the checksum (41_checksum.md R80), `goto_idle` (10_state.md R19), raising a condition
(60_exceptions.md R116; it has no handler and so no return, R117) and reset (70_reset_and_hazards.md R130). -/

namespace Sys2Proof.Machine

open Sys2Proof

/-- The canonical form of the buffer: addresses strictly rising. No listed cell equals what an unlisted one reads as,
since an unlisted one has no value. -/
abbrev Memory.wf (m : Memory) : Prop := m.Pairwise (fun c d => c.1 < d.1)

/-- The byte a cell holds, if it holds one. -/
def Memory.read : Memory → Nat → Option Byte
  | [], _ => none
  | (k, v) :: m, a => if k = a then some v else Memory.read m a

/-- `buf[a] <- b`, in canonical form. -/
def Memory.write : Memory → Nat → Byte → Memory
  | [], a, b => [(a, b)]
  | (k, v) :: m, a, b =>
    if a < k then (a, b) :: (k, v) :: m
    else if a = k then (a, b) :: m
    else (k, v) :: Memory.write m a b

/-- `MemRead(a, 1)` (R34): one byte, no side effect. -/
def State.readCell (s : State) (a : Nat) : Except Fault Byte :=
  if a < s.cfg.bufSize then
    match s.buf.read a with
    | some b => .ok b
    | none => .error .unwrittenCell
  else .error .readOutsideBuffer

/-- `buf[a .. a + k)` as a list, lowest address first. -/
def State.readCells (s : State) (a : Nat) : Nat → Except Fault (List Byte)
  | 0 => .ok []
  | k + 1 =>
    match s.readCell a with
    | .error f => .error f
    | .ok b =>
      match s.readCells (a + 1) k with
      | .error f => .error f
      | .ok bs => .ok (b :: bs)

/-- The store primitive `buf[wr] <- b; wr <- wr + 1` (R32). -/
def State.storeByte (b : Byte) (s : State) : Except Fault State :=
  if s.wr < s.cfg.bufSize then .ok { s with buf := s.buf.write s.wr b, wr := s.wr + 1 }
  else .error .storeOutsideBuffer

/-- `sum8` of the bytes of a message: their exact sum, then modulo 256 (R80). -/
def sum8 (bs : List Byte) : Byte := BitVec.ofNat 8 (bs.map BitVec.toNat).sum

/-- `goto_idle` (R19): IDLE and every counter 0; `buf` is not written. -/
def State.gotoIdle (s : State) : State :=
  { s with st := .idle, run := 0, hold := 0, remain := 0, wr := 0, len := 0 }

/-- Discard the decoder's working values (R21) and the record under construction (R22). -/
def State.endWalk (s : State) : State := { s with walk := none }

/-- Raise a condition (R110, R116): report it on the outputs, discard the record under construction, `goto_idle`.
Nothing is saved. -/
def State.raise (c : Condition) (s : State) : State :=
  ((s.setErr c.err).emit c.item).endWalk.gotoIdle

/-- A cycle in which no byte is accepted: nothing changes and the output is idle (R23, R127). -/
def State.holdCycle (s : State) : State := s.clearOut

/-- A cycle with `rst` = 1 (R29, R130): the reset values, the output idle, no byte accepted. The parameter is the
instance's own and the cycles still to come are the host's, so both stay. -/
def State.resetCycle (s : State) : State :=
  { State.reset with cfg := s.cfg, verbose := s.verbose, input := s.input }

/-- Run `f` on the next state of `o`, if it has one. -/
def andThen (o : Host.Outcome State Fault Refusal) (f : State → Host.Outcome State Fault Refusal) :
    Host.Outcome State Fault Refusal :=
  match o with
  | .next s => f s
  | .fault r => .fault r
  | .refused r => .refused r

end Sys2Proof.Machine
end

