-- ==== Sys2Proof/Machine/Operands.lean ====
section
/-! DEFINITION. Operand forms: the Length and Len operands (30_encoding.md R48), the payload view `P`
(20_memory.md R33), and a field's header, value and advance (42_mdmf_decoder.md R88 to R90). -/

namespace Sys2Proof.Machine

open Sys2Proof

/-- The Length operand: `zext(b)`, counted in bytes (R48). -/
def lengthOperand (b : Byte) : Nat := b.toNat

/-- The Len operand of a field, 0 to 255, counted in bytes (R48). -/
def lenOperand (n : Byte) : Nat := n.toNat

/-- `P[i] = buf[2 + i]` for `i < len` (R33). -/
def State.payloadByte (s : State) (i : Nat) : Except Fault Byte :=
  if i < s.len then s.readCell (2 + i) else .error .readOutsidePayload

/-- `P[i .. i + k)` as a list, in payload order (R90). -/
def State.payloadBytes (s : State) (i : Nat) : Nat → Except Fault (List Byte)
  | 0 => .ok []
  | k + 1 =>
    match s.payloadByte i with
    | .error f => .error f
    | .ok b =>
      match s.payloadBytes (i + 1) k with
      | .error f => .error f
      | .ok bs => .ok (b :: bs)

/-- The header's two bytes, `P[cur]` and `P[cur + 1]` (R88). -/
def State.headerBytes (s : State) (w : Walk) : Except Fault (Byte × Byte) :=
  match s.payloadByte w.cur with
  | .error f => .error f
  | .ok tag =>
    match s.payloadByte (w.cur + 1) with
    | .error f => .error f
    | .ok n => .ok (tag, n)

/-- The header read: `tag`, `n` taken, `cur <- cur + 2`, `rem <- rem - 2` (R88). -/
def Walk.takeHeader (tag n : Byte) (w : Walk) : Walk :=
  { w with cur := w.cur + 2, rem := w.rem - 2, tag := tag, n := n }

/-- The advance: `cur <- cur + n`, `rem <- rem - n` (R89). -/
def Walk.advance (w : Walk) : Walk :=
  { w with cur := w.cur + lenOperand w.n, rem := w.rem - lenOperand w.n }

/-- The decode's start: `cur <- 0`, `rem <- L`, a fresh record (R85). `tag` and `n` have no value yet; every turn
writes them before it reads them (notes/assumptions/5.md). -/
def Walk.start (len : Nat) : Walk :=
  { cur := 0, rem := len, tag := 0x00, n := 0x00, record := CallRecord.empty }

end Sys2Proof.Machine
end

