-- ==== Sys2Proof/Machine/Tlv.lean ====
section
/-! DEFINITION. The MDMF Decoder: one turn of its loop and the meaning of each tag (42_mdmf_decoder.md R85 to R102). -/

namespace Sys2Proof.Machine

open Sys2Proof

/-- One turn of the loop of R85 on a field of tag `tag` and Len `n`: the header read (R88), the bounds check (R91),
the value (R90), the tag's action on the record, `T_FIELD` (R105), the advance (R89). A bounds violation raises
`DecodeError`, which discards the record (R108). -/
def fieldTurn (act : List Byte → CallRecord → CallRecord) (tag n : Byte) (s : State) :
    Host.Outcome State Fault Refusal :=
  match s.walk with
  | none => .fault .decoderNotRunning
  | some w =>
    let w1 := w.takeHeader tag n
    if w1.rem < lenOperand w1.n then
      .next (s.raise (.decodeError w1.tag w1.n (BitVec.ofNat 8 w1.rem)))
    else
      match s.payloadBytes w1.cur (lenOperand w1.n) with
      | .error f => .fault f
      | .ok v =>
        let w2 : Walk := { w1 with record := act v w1.record }
        .next (State.emit (.field w1.tag w1.n) { s with walk := some w2.advance })

/-- `time <- v` (R92). -/
def storeTime (v : List Byte) (r : CallRecord) : CallRecord := { r with time := v }

/-- `number <- v` (R93, R95). -/
def storeNumber (v : List Byte) (r : CallRecord) : CallRecord := { r with number := v }

/-- `name <- v` (R98, R99). -/
def storeName (v : List Byte) (r : CallRecord) : CallRecord := { r with name := v }

/-- "no-op, recognized and skipped" (R94, R96, R97, R101, R102). -/
def skipField (_v : List Byte) (r : CallRecord) : CallRecord := r

/-- `TLV.TIME` (R92). -/
def execTlvTime (n : Byte) (s : State) : Host.Outcome State Fault Refusal := fieldTurn storeTime 0x01 n s

/-- `TLV.NUMBER` (R93). -/
def execTlvNumber (n : Byte) (s : State) : Host.Outcome State Fault Refusal := fieldTurn storeNumber 0x02 n s

/-- `TLV.DN` (R94). -/
def execTlvDn (n : Byte) (s : State) : Host.Outcome State Fault Refusal := fieldTurn skipField 0x03 n s

/-- `TLV.NUMBER_ABSENT` (R95). -/
def execTlvNumberAbsent (n : Byte) (s : State) : Host.Outcome State Fault Refusal := fieldTurn storeNumber 0x04 n s

/-- `TLV.REDIR` (R96). -/
def execTlvRedir (n : Byte) (s : State) : Host.Outcome State Fault Refusal := fieldTurn skipField 0x05 n s

/-- `TLV.QUALIFIER` (R97). -/
def execTlvQualifier (n : Byte) (s : State) : Host.Outcome State Fault Refusal := fieldTurn skipField 0x06 n s

/-- `TLV.NAME` (R98). -/
def execTlvName (n : Byte) (s : State) : Host.Outcome State Fault Refusal := fieldTurn storeName 0x07 n s

/-- `TLV.NAME_ABSENT` (R99). -/
def execTlvNameAbsent (n : Byte) (s : State) : Host.Outcome State Fault Refusal := fieldTurn storeName 0x08 n s

/-- `TLV.MWI` (R101). -/
def execTlvMwi (n : Byte) (s : State) : Host.Outcome State Fault Refusal := fieldTurn skipField 0x0B n s

/-- `TLV.OTHER` (R102). -/
def execTlvOther (tag n : Byte) (s : State) : Host.Outcome State Fault Refusal := fieldTurn skipField tag n s

/-- The `case tag of` of R85: the tag selects the meaning, as `decodeTag` selects the instruction. -/
def execTag (tag n : Byte) (s : State) : Host.Outcome State Fault Refusal :=
  if tag = 0x01 then execTlvTime n s
  else if tag = 0x02 then execTlvNumber n s
  else if tag = 0x03 then execTlvDn n s
  else if tag = 0x04 then execTlvNumberAbsent n s
  else if tag = 0x05 then execTlvRedir n s
  else if tag = 0x06 then execTlvQualifier n s
  else if tag = 0x07 then execTlvName n s
  else if tag = 0x08 then execTlvNameAbsent n s
  else if tag = 0x0B then execTlvMwi n s
  else execTlvOther tag n s

/-- The loop has ended well (R87, R100): the record goes to the output `rec`, `T_RECORD` to the trace, and the block
to IDLE (40_synchronizer.md R69). The leftover bytes are not read. -/
def finishDecode (s : State) : State :=
  match s.walk with
  | none => s
  | some w => (State.emit .recordOut (s.setRecord w.record)).endWalk.gotoIdle

/-- The loop of R85 to its end: while more than 2 bytes remain (R86), read the header and run the tag's meaning. Each
turn takes at least 2 bytes, so `len` turns are more than enough. -/
def runWalk : Nat → State → Host.Outcome State Fault Refusal
  | 0, s => .next (finishDecode s)
  | k + 1, s =>
    match s.walk with
    | none => .next s
    | some w =>
      if w.rem ≤ 2 then .next (finishDecode s)
      else
        match s.headerBytes w with
        | .error f => .fault f
        | .ok (tag, n) => andThen (execTag tag n s) (runWalk k)

end Sys2Proof.Machine
end

