-- ==== Sys2Proof/Machine/Checksum.lean ====
section
/-! DEFINITION. The checksum byte: 40_synchronizer.md R69, with the checksum of 41_checksum.md R80 and the decode of
42_mdmf_decoder.md R85 inside the one step. -/

namespace Sys2Proof.Machine

open Sys2Proof

/-- `CKSUM` (R69): store the byte, sum the whole message, and either report the failure or decode the payload to its
end; either outcome returns to IDLE. -/
def execCksum (b : Byte) (s : State) : Host.Outcome State Fault Refusal :=
  match s.clearOut.storeByte b with
  | .error f => .fault f
  | .ok s1 =>
    match s1.readCells 0 (s1.len + 3) with
    | .error f => .fault f
    | .ok bs =>
      if sum8 bs = 0x00 then
        runWalk s1.len (State.emit .cksOk { s1 with walk := some (Walk.start s1.len) })
      else .next (s1.raise (.checksumFailure (sum8 bs)))

end Sys2Proof.Machine
end

