-- ==== Sys2Proof/Machine/Synchronizer.lean ====
section
/-! DEFINITION. The Frame Synchronizer's meanings but for the checksum byte's: 40_synchronizer.md R61 to R68. A
meaning applies its rule's pseudocode to the state it is given; that the state is the rule's own is the decoder's
business (R51, notes/assumptions/12.md). -/

namespace Sys2Proof.Machine

open Sys2Proof

/-- `IDLE.PRE` (R61). -/
def execIdlePre (s : State) : Host.Outcome State Fault Refusal :=
  if preThresh ≤ s.run + 1 then
    .next (State.emit .syncAcq { s.clearOut with st := .sync, run := 0, hold := holdInit })
  else
    .next { s.clearOut with run := s.run + 1 }

/-- `IDLE.OTHER` (R62). -/
def execIdleOther (_b : Byte) (s : State) : Host.Outcome State Fault Refusal :=
  .next { s.clearOut with run := 0 }

/-- `SYNC.TYPE` (R63). -/
def execSyncType (s : State) : Host.Outcome State Fault Refusal :=
  match s.clearOut.storeByte typeMdmf with
  | .error f => .fault f
  | .ok s1 => .next (State.emit .typeByte { s1 with hold := 0, st := .readingLength })

/-- `SYNC.OTHER` (R64). -/
def execSyncOther (_b : Byte) (s : State) : Host.Outcome State Fault Refusal :=
  if s.hold - 1 = 0 then .next (s.clearOut.raise .syncLost)
  else .next { s.clearOut with hold := s.hold - 1 }

/-- `LEN.ZERO` (R65). -/
def execLenZero (s : State) : Host.Outcome State Fault Refusal :=
  .next (s.clearOut.raise (.lengthRejected 0x00))

/-- `LEN.OVER` (R66). -/
def execLenOver (b : Byte) (s : State) : Host.Outcome State Fault Refusal :=
  .next (s.clearOut.raise (.lengthRejected b))

/-- `LEN.OK` (R67). -/
def execLenOk (b : Byte) (s : State) : Host.Outcome State Fault Refusal :=
  match s.clearOut.storeByte b with
  | .error f => .fault f
  | .ok s1 => .next { s1 with len := lengthOperand b, remain := lengthOperand b, st := .readingData }

/-- `DATA` (R68). -/
def execData (b : Byte) (s : State) : Host.Outcome State Fault Refusal :=
  match s.clearOut.storeByte b with
  | .error f => .fault f
  | .ok s1 =>
    if s.remain - 1 = 0 then .next { s1 with remain := 0, st := .readingChecksum }
    else .next { s1 with remain := s.remain - 1 }

end Sys2Proof.Machine
end

