-- ==== Sys2Proof/Machine/Frame.lean ====
section
/-! DEFINITION. The step function of 40_synchronizer.md R60 on one byte and on a stream, the meaning of a whole
message (30_encoding.md R46), and the stream notation of R49 and R55. -/

namespace Sys2Proof.Machine

open Sys2Proof

/-- `step(S, b)` of R60: the state picks the group and the byte its class (R71). -/
def acceptByte (b : Byte) (s : State) : Host.Outcome State Fault Refusal :=
  match s.st with
  | .idle => if b = preamble then execIdlePre s else execIdleOther b s
  | .sync => if b = typeMdmf then execSyncType s else execSyncOther b s
  | .readingLength =>
    if b = 0x00 then execLenZero s else if s.cfg.maxLen < b.toNat then execLenOver b s else execLenOk b s
  | .readingData => execData b s
  | .readingChecksum => execCksum b s

/-- The fold of `step` over a stream of accepted bytes (R60, 70_reset_and_hazards.md R144). -/
def feed : List Byte → State → Host.Outcome State Fault Refusal
  | [], s => .next s
  | b :: bs, s => andThen (acceptByte b s) (feed bs)

/-- The sequence of step outputs over a stream (R144). -/
def outputs : List Byte → State → List Out
  | [], _ => []
  | b :: bs, s =>
    match acceptByte b s with
    | .next s1 => s1.out :: outputs bs s1
    | .fault _ => []
    | .refused _ => []

/-- The sender's checksum byte of a message with payload `p` (R49). -/
def senderChecksum (p : List Byte) : Byte :=
  BitVec.ofNat 8 (256 - (typeMdmf.toNat + p.length + (p.map BitVec.toNat).sum) % 256)

/-- `PRE(n)` (R55). -/
def pre (k : Nat) : List Byte := List.replicate k preamble

/-- `TLV(tt, v)` (R55). -/
def tlv (tag : Byte) (v : List Byte) : List Byte := tag :: BitVec.ofNat 8 v.length :: v

/-- `RAW(LL, p, cc)` (R55). -/
def raw (l : Byte) (p : List Byte) (ck : Byte) : List Byte := typeMdmf :: l :: (p ++ [ck])

/-- `FRAME_CK(p, cc)` (R55). -/
def frameCk (p : List Byte) (ck : Byte) : List Byte := raw (BitVec.ofNat 8 p.length) p ck

/-- `FRAME(p)` (R55). -/
def frame (p : List Byte) : List Byte := frameCk p (senderChecksum p)

/-- `MDMF.FRAME` (R46): the message's bytes accepted one after the other, each by its own step (R72). -/
def execMdmfFrame (p : List Byte) (ck : Byte) (s : State) : Host.Outcome State Fault Refusal :=
  feed (frameCk p ck) s

end Sys2Proof.Machine
end

