-- ==== Sys2Proof/Machine/Dispatch.lean ====
section
/-! DEFINITION. exec: one arm per constructor of Instr. -/

namespace Sys2Proof.Machine

open Sys2Proof

def exec (i : Instr) (s : State) : Host.Outcome State Fault Refusal :=
  match i with
  | .idlePre => Sys2Proof.Machine.execIdlePre s
  | .idleOther b => Sys2Proof.Machine.execIdleOther b s
  | .syncType => Sys2Proof.Machine.execSyncType s
  | .syncOther b => Sys2Proof.Machine.execSyncOther b s
  | .lenZero => Sys2Proof.Machine.execLenZero s
  | .lenOver b => Sys2Proof.Machine.execLenOver b s
  | .lenOk b => Sys2Proof.Machine.execLenOk b s
  | .data b => Sys2Proof.Machine.execData b s
  | .cksum b => Sys2Proof.Machine.execCksum b s
  | .tlvTime n => Sys2Proof.Machine.execTlvTime n s
  | .tlvNumber n => Sys2Proof.Machine.execTlvNumber n s
  | .tlvDn n => Sys2Proof.Machine.execTlvDn n s
  | .tlvNumberAbsent n => Sys2Proof.Machine.execTlvNumberAbsent n s
  | .tlvRedir n => Sys2Proof.Machine.execTlvRedir n s
  | .tlvQualifier n => Sys2Proof.Machine.execTlvQualifier n s
  | .tlvName n => Sys2Proof.Machine.execTlvName n s
  | .tlvNameAbsent n => Sys2Proof.Machine.execTlvNameAbsent n s
  | .tlvMwi n => Sys2Proof.Machine.execTlvMwi n s
  | .tlvOther tag n => Sys2Proof.Machine.execTlvOther tag n s
  | .mdmfFrame p ck => Sys2Proof.Machine.execMdmfFrame p ck s

end Sys2Proof.Machine
end

