-- ==== Sys2Proof/Machine/Fetch.lean ====
section
/-! DEFINITION. What a step finds to do: the next input cycle (10_state.md R23), or, where a payload is being walked,
the next field (42_mdmf_decoder.md R86). And placing an instruction where it is found. -/

namespace Sys2Proof.Machine

open Sys2Proof

/-- What a step finds: an instruction to run, a state to settle in without one, or a read it cannot make. -/
inductive Fetched where
  | run (i : Instr) (s : State)
  | settle (s : State)
  | stop (f : Fault)
deriving DecidableEq, Repr

/-- Sample the pins of a cycle: its `verbose` level, and the cycles after it (R20, R23). -/
def State.sample (c : Cycle) (rest : List Cycle) (s : State) : State :=
  { s with verbose := c.verbose, input := rest }

/-- A cycle: `rst` first, whatever `in_valid` is (R130); then the byte, if there is one (R23). -/
def fetchCycle (c : Cycle) (s : State) : Fetched :=
  if c.rst then .settle s.resetCycle
  else if c.inValid then .run (decodeByte s.cfg s.st c.inByte) s
  else .settle s.holdCycle

/-- The walk's next turn (R86), or its end (R87). -/
def fetchField (w : Walk) (s : State) : Fetched :=
  if w.rem ≤ 2 then .settle (finishDecode s)
  else
    match s.headerBytes w with
    | .error f => .stop f
    | .ok (tag, n) => .run (decodeTag tag n) s

/-- What the step finds. A host that presents no further cycle feeds no further byte: the state is held (60_exceptions.md
R111, R127). -/
def fetch (s : State) : Fetched :=
  match s.walk with
  | some w => fetchField w s
  | none =>
    match s.input with
    | [] => .settle s.holdCycle
    | c :: rest => fetchCycle c (s.sample c rest)

/-- The cycle that presents the byte `b`. -/
def byteCycle (verbose : Bool) (b : Byte) : Cycle :=
  { rst := false, verbose := verbose, inValid := true, inByte := b }

/-- A list of bytes as cells from address `a` on. -/
def cellsFrom (a : Nat) : List Byte → Memory
  | [] => []
  | b :: bs => (a, b) :: cellsFrom (a + 1) bs

/-- A well-formed state whose synchronizer state is `st`, from `s` (10_state.md R25): in IDLE only `st` is set; past it
the counters and cells of the shortest message. -/
def State.enter (st : SyncState) (s : State) : State :=
  match st with
  | .idle => { s with st := .idle, walk := none }
  | .sync => { s.gotoIdle.endWalk with st := .sync, hold := holdInit }
  | .readingLength => { s.gotoIdle.endWalk with st := .readingLength, wr := 1, buf := cellsFrom 0 [typeMdmf] }
  | .readingData =>
    { s.gotoIdle.endWalk with st := .readingData, wr := 2, len := 1, remain := 1, buf := cellsFrom 0 [typeMdmf, 0x01] }
  | .readingChecksum =>
    { s.gotoIdle.endWalk with st := .readingChecksum, wr := 3, len := 1, buf := cellsFrom 0 [typeMdmf, 0x01, 0x00] }

/-- A walk at the header `tag n` of a payload that holds this field, its value bytes 0, and ends with it or a byte
after it. -/
def State.enterField (tag n : Byte) (s : State) : State :=
  let l := min s.cfg.maxLen (max 3 (lenOperand n + 2))
  let p := tag :: n :: List.replicate (l - 2) 0x00
  { s.gotoIdle with
    st := .readingChecksum, wr := l + 3, len := l, buf := cellsFrom 0 (frameCk p (senderChecksum p)),
    walk := some (Walk.start l) }

/-- Place an instruction where the next step finds it: the context it is read in, and its bytes before any other
input. -/
def State.place (i : Instr) (s : State) : State :=
  match i.context with
  | .sync st => { s.enter st with input := (encode i).map (byteCycle s.verbose) ++ s.input }
  | .field => s.enterField ((encode i).headD 0x00) ((encode i).getD 1 0x00)
  | .message => { s.enter .sync with input := (encode i).map (byteCycle s.verbose) ++ s.input }

/-- Place the instruction a table word spells, if it spells one. -/
def State.placeWord (nbits w : Nat) (s : State) : State :=
  match decodeTableWord nbits w with
  | some i => s.place i
  | none => s

end Sys2Proof.Machine
end

