-- ==== Sys2Proof/Machine/Step.lean ====
section
/-! DEFINITION. step: find what the state gives to do and run it (40_synchronizer.md R60). -/

namespace Sys2Proof.Machine

open Sys2Proof

/-- One step of the block. Where the state holds no walk, which is so between the steps of every run from reset
(10_state.md R21), it is the step of one clock cycle: the byte of that cycle with everything it causes. -/
def step (s : State) : Host.Outcome State Fault Refusal :=
  match fetch s with
  | .run i s1 => exec i s1
  | .settle s1 => .next s1
  | .stop f => .fault f

/-- `s` with the instruction a table word spells stored where `step` fetches its next instruction: the host's
presentation of its byte, in the synchronizer state (or at the payload cursor) that the instruction is read in. -/
def State.withFetchWord (s : State) (nbits w : Nat) : State := s.placeWord nbits w

end Sys2Proof.Machine
end

