-- ==== Sys2Proof/Machine/Reference.lean ====
section
/-! DEFINITION. `Decode(P, L)` of 42_mdmf_decoder.md R85 a second time, as a function of the payload bytes alone
(R109): split the payload into its fields, then let the last writer of each record field win (R103). The machine's walk
is stated equal to it. -/

namespace Sys2Proof.Machine

open Sys2Proof

/-- A payload split into fields: those that pass the bounds check, in payload order, each a tag and its value; and the
header that fails it, with the bytes left after that header, if one does (R91). -/
structure Fields where
  good : List (Byte × List Byte)
  bad : Option (Byte × Byte × Nat)
deriving DecidableEq, Repr

/-- Split a payload of at most `fuel` fields. Fewer than 3 bytes are padding (R87). -/
def splitFields : Nat → List Byte → Fields
  | 0, _ => { good := [], bad := none }
  | fuel + 1, p =>
    match p with
    | tag :: n :: v :: rest =>
      let body := v :: rest
      if body.length < n.toNat then { good := [], bad := some (tag, n, body.length) }
      else
        let fs := splitFields fuel (body.drop n.toNat)
        { fs with good := (tag, body.take n.toNat) :: fs.good }
    | _ => { good := [], bad := none }

/-- The fields of a payload: it has fewer fields than bytes (R59). -/
def fieldsOf (p : List Byte) : Fields := splitFields p.length p

/-- The value of the last field whose tag is one of `tags`, the empty text where there is none (R103, R104). -/
def lastValue (tags : List Byte) (fs : List (Byte × List Byte)) : List Byte :=
  (((fs.filter fun f => tags.contains f.1).map Prod.snd).getLast?).getD []

/-- The record the fields make (R92, R93, R95, R98, R99). -/
def recordOf (fs : List (Byte × List Byte)) : CallRecord :=
  { time := lastValue [0x01] fs, number := lastValue [0x02, 0x04] fs, name := lastValue [0x07, 0x08] fs }

/-- One `T_FIELD(tag, n)` per field (R105). -/
def fieldItems (fs : List (Byte × List Byte)) : List TraceItem :=
  fs.map fun f => .field f.1 (BitVec.ofNat 8 f.2.length)

/-- Keep the items only where `verbose` is 1 (R112). -/
def traced (verbose : Bool) (items : List TraceItem) : List TraceItem := if verbose then items else []

/-- The output of the step that accepts the checksum byte of a message whose payload is `p` and whose bytes sum to
`s` (40_synchronizer.md R69, 60_exceptions.md R113). -/
def messageOut (verbose : Bool) (s : Byte) (p : List Byte) : Out :=
  if s = 0x00 then
    let fs := fieldsOf p
    match fs.bad with
    | none =>
      { record := some (recordOf fs.good), err := .none,
        trace := traced verbose (.cksOk :: (fieldItems fs.good ++ [.recordOut])) }
    | some (tag, n, rem) =>
      { record := none, err := .decode,
        trace := traced verbose
          (.cksOk :: (fieldItems fs.good ++ [.decodeErr tag n (BitVec.ofNat 8 rem)])) }
  else { record := none, err := .checksum, trace := traced verbose [.cksBad s] }

end Sys2Proof.Machine
end

