-- ==== Sys2Proof/Safety.lean ====
section
/-! DEFINITION. The terms statements use: the invariant of 10_state.md R25, and views of a state. -/

namespace Sys2Proof.Machine

open Sys2Proof

/-- The cell `a` holds a byte. -/
abbrev State.Written (s : State) (a : Nat) : Prop := (s.buf.read a).isSome = true

/-- The header cells of a message under reassembly: `buf[0]` = 0x80 and `buf[1]` = `len` (R25). -/
abbrev State.HeaderStored (s : State) : Prop :=
  s.buf.read 0 = some typeMdmf ∧ s.buf.read 1 = some (BitVec.ofNat 8 s.len)

/-- R25's row IDLE. -/
abbrev State.IdleRow (s : State) : Prop :=
  s.run ≤ 15 ∧ s.hold = 0 ∧ s.remain = 0 ∧ s.wr = 0 ∧ s.len = 0

/-- R25's row SYNC. -/
abbrev State.SyncRow (s : State) : Prop :=
  s.run = 0 ∧ 1 ≤ s.hold ∧ s.hold ≤ 16 ∧ s.remain = 0 ∧ s.wr = 0 ∧ s.len = 0

/-- R25's row READING_LENGTH. -/
abbrev State.LengthRow (s : State) : Prop :=
  s.run = 0 ∧ s.hold = 0 ∧ s.remain = 0 ∧ s.wr = 1 ∧ s.len = 0 ∧ s.buf.read 0 = some typeMdmf

/-- R25's row READING_DATA. -/
abbrev State.DataRow (s : State) : Prop :=
  s.run = 0 ∧ s.hold = 0 ∧ 1 ≤ s.remain ∧ s.remain ≤ s.len ∧ s.wr + s.remain = 2 + s.len ∧
    1 ≤ s.len ∧ s.len ≤ s.cfg.maxLen ∧ s.HeaderStored ∧ ∀ a, a < s.wr → s.Written a

/-- R25's row READING_CHECKSUM. -/
abbrev State.ChecksumRow (s : State) : Prop :=
  s.run = 0 ∧ s.hold = 0 ∧ s.remain = 0 ∧ s.wr = s.len + 2 ∧
    1 ≤ s.len ∧ s.len ≤ s.cfg.maxLen ∧ s.HeaderStored ∧ ∀ a, a < s.wr → s.Written a

/-- While a payload is walked (R21, R86): the whole message is stored, `cur + rem = len`, no record or error has been
put out, and no field of the record under construction is longer than `FIELD_CAP` (R22; at `MAX_LEN` = 1 see
notes/assumptions/22.md). -/
abbrev State.WalkRow (s : State) (w : Walk) : Prop :=
  s.st = .readingChecksum ∧ s.run = 0 ∧ s.hold = 0 ∧ s.remain = 0 ∧ s.wr = s.len + 3 ∧
    1 ≤ s.len ∧ s.len ≤ s.cfg.maxLen ∧ s.HeaderStored ∧ (∀ a, a < s.wr → s.Written a) ∧
    w.cur + w.rem = s.len ∧ s.out.record = none ∧ s.out.err = .none ∧
    w.record.time.length ≤ s.cfg.fieldCap ∧ w.record.number.length ≤ s.cfg.fieldCap ∧
    w.record.name.length ≤ s.cfg.fieldCap

/-- R25's table for a state between steps. -/
abbrev State.RestRow (s : State) : Prop :=
  (s.st = .idle → s.IdleRow) ∧ (s.st = .sync → s.SyncRow) ∧ (s.st = .readingLength → s.LengthRow) ∧
    (s.st = .readingData → s.DataRow) ∧ (s.st = .readingChecksum → s.ChecksumRow)

/-- Every listed cell lies inside the buffer (20_memory.md R30). -/
abbrev State.CellsInside (s : State) : Prop := ∀ c ∈ s.buf, c.1 < s.cfg.bufSize

/-- The invariant: `MAX_LEN` in its range, the buffer in canonical form and inside its address space, and R25's table,
or the walk's row while a payload is walked. -/
def State.Inv (s : State) : Prop :=
  s.cfg.Wf ∧ s.buf.wf ∧ s.CellsInside ∧
    match s.walk with
    | none => s.RestRow
    | some w => s.WalkRow w

/-- The invariant of a state between steps: there is no walk (R21). -/
def State.Rest (s : State) : Prop := s.walk = none ∧ s.Inv

/-- `buf[a .. a + k)` as the bytes the cells hold, a cell without a value counted as 0. -/
def State.cells (s : State) (a k : Nat) : List Byte := (List.range k).map fun i => (s.buf.read (a + i)).getD 0x00

/-- The payload `buf[2 .. len + 2)` (20_memory.md R33). -/
def State.payload (s : State) : List Byte := s.cells 2 s.len

/-- The state `goto_idle` leaves, with the output `o` (R19). -/
def State.idleWith (s : State) (o : Out) : State :=
  { s with st := .idle, run := 0, hold := 0, remain := 0, wr := 0, len := 0, walk := none, out := o }

/-- An output with no record and no error, and `items` where `verbose` is 1. -/
def traceOut (verbose : Bool) (items : List TraceItem) : Out :=
  { record := none, err := .none, trace := traced verbose items }

/-- The cell `a` of `m'` and of `m` hold the same, for every `a` but `a0`, where `m'` holds `b`. -/
def StoredAt (m m' : Memory) (a0 : Nat) (b : Byte) : Prop :=
  ∀ a, m'.read a = if a = a0 then some b else m.read a

/-- The state after a field of tag `tag` and Len `n` has passed the bounds check in the walk `w` (42_mdmf_decoder.md R88,
R89, R105), with the record `r`. -/
def State.afterField (s : State) (w : Walk) (tag n : Byte) (r : CallRecord) : State :=
  { s with
    walk := some { cur := w.cur + 2 + n.toNat, rem := w.rem - 2 - n.toNat, tag := tag, n := n, record := r },
    out := { s.out with trace := s.out.trace ++ traced s.verbose [.field tag n] } }

/-- The value of a field of Len `n` whose header stands at the cursor of `w`: `P[cur + 2 .. cur + 2 + n)` (R90). -/
def State.fieldValue (s : State) (w : Walk) (n : Byte) : List Byte := s.cells (2 + (w.cur + 2)) n.toNat

/-- `t` is `s` but for cells of the buffer at or past the write cursor: cells no byte of the current message has been
stored in (20_memory.md R35). -/
def SameButStale (s t : State) : Prop :=
  t = { s with buf := t.buf } ∧ ∀ a, a < s.wr → t.buf.read a = s.buf.read a

/-- Change the next state of an outcome, if there is one. -/
def mapNext (f : State → State) (o : Host.Outcome State Fault Refusal) : Host.Outcome State Fault Refusal :=
  match o with
  | .next s => .next (f s)
  | .fault r => .fault r
  | .refused r => .refused r

/-- Whether a trace item is a `T_FIELD`. -/
def TraceItem.isField : TraceItem → Bool
  | .field _ _ => true
  | _ => false

/-- The bytes a sequence of cycles presents (10_state.md R23). -/
def acceptedBytes (cs : List Cycle) : List Byte := (cs.filter fun c => c.inValid).map fun c => c.inByte

/-- The sum of a message's bytes, modulo 256 (41_checksum.md R80), written out. -/
def byteSum (bs : List Byte) : Nat := (bs.map fun b => b.toNat).sum % 256

/-- The state with what only the observer sees taken away: the sampled level and the trace (R20). -/
def State.untraced (s : State) : State := { s with verbose := false, out := { s.out with trace := [] } }

/-- The input stream that presents `bs`, one byte a cycle. -/
def byteCycles (verbose : Bool) (bs : List Byte) : List Cycle := bs.map (byteCycle verbose)

/-- Where the byte `b` takes the synchronizer from the state (40_synchronizer.md R78's list of transitions). -/
def nextSt (s : State) (b : Byte) : SyncState :=
  match s.st with
  | .idle => if b = 0x55 ∧ s.run = 15 then .sync else .idle
  | .sync => if b = 0x80 then .readingLength else if s.hold = 1 then .idle else .sync
  | .readingLength => if b = 0x00 ∨ s.cfg.maxLen < b.toNat then .idle else .readingData
  | .readingData => if s.remain = 1 then .readingChecksum else .readingData
  | .readingChecksum => .idle

end Sys2Proof.Machine
end

