-- ==== Sys2Proof/Certificates/Slice0/Obligations.lean ====
section
/-! DEFINITION. The statements for the provers, each a rule of spec/ about what an instruction or the machine does. -/

open Sys2Proof Sys2Proof.Machine

/-- R61: the 16th consecutive preamble byte moves IDLE to SYNC and arms the hold-budget; an earlier one counts. That it is
the 16th and not the 17th is the spec's decision D12. -/
def Obligations.IdlePreCountsOrLocks : Prop :=
  ∀ s : State,
    exec .idlePre s =
      .next (if 16 ≤ s.run + 1 then
          { s with st := .sync, run := 0, hold := 16, out := traceOut s.verbose [.syncAcq] }
        else { s with run := s.run + 1, out := Out.idle })

/-- R62: any other byte in IDLE clears the preamble run and nothing else. -/
def Obligations.IdleOtherClearsRun : Prop :=
  ∀ (s : State) (b : Byte), exec (.idleOther b) s = .next { s with run := 0, out := Out.idle }

/-- R63: the type byte goes to `buf[0]`, `wr` becomes 1, the hold-budget is forgotten, READING_LENGTH is entered. -/
def Obligations.SyncTypeStoresTypeByte : Prop :=
  ∀ s : State, s.Rest → s.st = .sync →
    ∃ m, exec .syncType s =
        .next { s with buf := m, wr := 1, hold := 0, st := .readingLength, out := traceOut s.verbose [.typeByte] } ∧
      StoredAt s.buf m 0 0x80

/-- R64: any other byte in SYNC spends one of the hold-budget; the byte that spends the last returns to IDLE. That 0x55 is
one of them is the spec's decision D13. -/
def Obligations.SyncOtherSpendsBudget : Prop :=
  ∀ (s : State) (b : Byte), 1 ≤ s.hold →
    exec (.syncOther b) s =
      .next (if s.hold = 1 then s.idleWith (traceOut s.verbose [.syncLost])
        else { s with hold := s.hold - 1, out := Out.idle })

/-- R65: a zero Length abandons the message: `goto_idle`, no record, no error, nothing stored. -/
def Obligations.LenZeroAbandons : Prop :=
  ∀ s : State, exec .lenZero s = .next (s.idleWith (traceOut s.verbose [.lenReject 0x00]))

/-- R66: a Length above `MAX_LEN` abandons the message the same way. That READING_LENGTH has this row, and `MAX_LEN`, is the
spec's decision D5. -/
def Obligations.LenOverAbandons : Prop :=
  ∀ (s : State) (b : Byte), exec (.lenOver b) s = .next (s.idleWith (traceOut s.verbose [.lenReject b]))

/-- R67: an accepted Length is captured in `len` and `remain` and stored at `buf[1]`. -/
def Obligations.LenOkCapturesLength : Prop :=
  ∀ (s : State) (b : Byte), s.Rest → s.st = .readingLength → 1 ≤ b.toNat → b.toNat ≤ s.cfg.maxLen →
    ∃ m, exec (.lenOk b) s =
        .next { s with buf := m, wr := 2, len := b.toNat, remain := b.toNat, st := .readingData, out := Out.idle } ∧
      StoredAt s.buf m 1 b

/-- R68: a payload byte is stored at `wr` and counted; the last one moves to READING_CHECKSUM. -/
def Obligations.DataStoresAndCounts : Prop :=
  ∀ (s : State) (b : Byte), s.Rest → s.st = .readingData →
    ∃ m, exec (.data b) s =
        .next { s with
          buf := m, wr := s.wr + 1, remain := s.remain - 1,
          st := if s.remain = 1 then .readingChecksum else .readingData, out := Out.idle } ∧
      StoredAt s.buf m s.wr b

/-- R69: the checksum byte is stored, the whole message is summed, and the step's output is the checksum failure or
what `Decode` gives for the payload; either outcome returns to IDLE with every counter 0. What `Decode` gives
is R85 to R105's and the trace's order R113's. That the record goes to the output `rec`, that the last writer of a field
wins and that an empty record is put out are the spec's decisions D23, D15 and D18. -/
def Obligations.CksumComputesDecode : Prop :=
  ∀ (s : State) (b : Byte), s.Rest → s.st = .readingChecksum →
    ∃ m, exec (.cksum b) s =
        .next (State.idleWith { s with buf := m }
          (messageOut s.verbose (BitVec.ofNat 8 (byteSum (s.cells 0 (s.len + 2) ++ [b]))) s.payload)) ∧
      StoredAt s.buf m (s.len + 2) b

/-- The model's choice (notes/assumptions/16.md): a store with the cursor outside the buffer, which R32 says no
reachable step makes, is a fault. -/
def Obligations.StoreOutsideBufferFaults : Prop :=
  ∀ (s : State) (b : Byte), s.cfg.bufSize ≤ s.wr →
    exec .syncType s = .fault .storeOutsideBuffer ∧ exec (.lenOk b) s = .fault .storeOutsideBuffer ∧
      exec (.data b) s = .fault .storeOutsideBuffer ∧ exec (.cksum b) s = .fault .storeOutsideBuffer

/-- The model's choice (notes/assumptions/3.md): a checksum over a message with a cell nothing has written, which R35
says no reachable step reads, is a fault. -/
def Obligations.UnwrittenCellFaults : Prop :=
  ∀ (s : State) (b : Byte) (a : Nat), s.wr = s.len + 2 → s.len ≤ s.cfg.maxLen → s.buf.wf → a < s.wr →
    s.buf.read a = none → exec (.cksum b) s = .fault .unwrittenCell

/-- R92: tag 0x01 stores its value in Time, whatever Time held, and the walk goes past the field. -/
def Obligations.TimeFieldStored : Prop :=
  ∀ (s : State) (w : Walk) (n : Byte), s.Inv → s.walk = some w → 2 < w.rem → n.toNat + 2 ≤ w.rem →
    exec (.tlvTime n) s = .next (s.afterField w 0x01 n { w.record with time := s.fieldValue w n })

/-- R93, R95: tags 0x02 and 0x04 store their value in Number, whatever Number held. -/
def Obligations.NumberFieldsStored : Prop :=
  ∀ (s : State) (w : Walk) (n : Byte), s.Inv → s.walk = some w → 2 < w.rem → n.toNat + 2 ≤ w.rem →
    exec (.tlvNumber n) s = .next (s.afterField w 0x02 n { w.record with number := s.fieldValue w n }) ∧
      exec (.tlvNumberAbsent n) s = .next (s.afterField w 0x04 n { w.record with number := s.fieldValue w n })

/-- R98, R99: tags 0x07 and 0x08 store their value in Name, whatever Name held. -/
def Obligations.NameFieldsStored : Prop :=
  ∀ (s : State) (w : Walk) (n : Byte), s.Inv → s.walk = some w → 2 < w.rem → n.toNat + 2 ≤ w.rem →
    exec (.tlvName n) s = .next (s.afterField w 0x07 n { w.record with name := s.fieldValue w n }) ∧
      exec (.tlvNameAbsent n) s = .next (s.afterField w 0x08 n { w.record with name := s.fieldValue w n })

/-- R94, R96, R97, R101, R102: the reserved, unused and unknown tags write nothing to the record; the walk goes past
the field. -/
def Obligations.SkippedFieldsWriteNothing : Prop :=
  ∀ (s : State) (w : Walk) (tag n : Byte), s.Inv → s.walk = some w → 2 < w.rem → n.toNat + 2 ≤ w.rem →
    exec (.tlvDn n) s = .next (s.afterField w 0x03 n w.record) ∧
      exec (.tlvRedir n) s = .next (s.afterField w 0x05 n w.record) ∧
      exec (.tlvQualifier n) s = .next (s.afterField w 0x06 n w.record) ∧
      exec (.tlvMwi n) s = .next (s.afterField w 0x0B n w.record) ∧
      exec (.tlvOther tag n) s = .next (s.afterField w tag n w.record)

/-- R91, R108: a field of any tag whose Len is greater than the bytes left after its header ends the decode: no record,
`ERR_DECODE`, IDLE with every counter 0, `buf` as it was. -/
def Obligations.BoundsViolationAborts : Prop :=
  ∀ (s : State) (w : Walk) (tag n : Byte), s.Inv → s.walk = some w → 2 < w.rem → w.rem - 2 < n.toNat →
    exec (decodeTag tag n) s =
      .next (s.idleWith
        { record := none, err := .decode,
          trace := s.out.trace ++ traced s.verbose [.decodeErr tag n (BitVec.ofNat 8 (w.rem - 2))] })

/-- The model's choice (notes/assumptions/5.md): where no payload is walked the decoder's working values do not exist
(R21), and a field's instruction faults. -/
def Obligations.FieldOutsideWalkFaults : Prop :=
  ∀ (s : State) (tag n : Byte), s.walk = none → exec (decodeTag tag n) s = .fault .decoderNotRunning

/-- R46, R72: from SYNC, the bytes of a whole message leave the block in IDLE with the message in the buffer, and the
output of the last of their steps is the checksum failure or what `Decode` gives for the payload. That a message is an
instruction of its own, the fold of its bytes' steps, is the model's choice (notes/assumptions/8.md). -/
def Obligations.FrameFromSyncIsDecoded : Prop :=
  ∀ (s : State) (p : List Byte) (ck : Byte), s.Rest → s.st = .sync → 1 ≤ p.length → p.length ≤ s.cfg.maxLen →
    ∃ m, exec (.mdmfFrame p ck) s =
        .next (State.idleWith { s with buf := m }
          (messageOut s.verbose (BitVec.ofNat 8 (0x80 + p.length + byteSum p + ck.toNat)) p)) ∧
      ∀ a, m.read a =
        if a < p.length + 3 then (0x80#8 :: BitVec.ofNat 8 p.length :: (p ++ [ck]))[a]? else s.buf.read a

/-- R72, which the spec derives from R63 to R69: `len + 3` steps, one for each byte of the message on the input, are the
instruction `MDMF.FRAME` (the model's choice, notes/assumptions/8.md). -/
def Obligations.FrameIsItsSteps : Prop :=
  ∀ (s : State) (p : List Byte) (ck : Byte) (rest : List Cycle), s.walk = none →
    Host.Core.run Sys2Proof.core (p.length + 3)
        ({ s with input := byteCycles s.verbose (frameCk p ck) ++ rest } : State) =
      mapNext (fun t => { t with input := rest }) (exec (.mdmfFrame p ck) s)

/-- R45, R46, R49, R87, R103: from IDLE with no preamble byte counted, a preamble of 16 to 31 bytes and a message whose
payload is a list of fields and up to 2 bytes of padding yield the record those fields make, and no error. A last field
with an empty value and no padding after it is excluded: its 2 bytes are padding themselves (R58). The lock window is R79's,
which the spec derives from R61 to R64; that the last writer of a field wins and that an empty record is put out are the
spec's decisions D15 and D18. -/
def Obligations.WellFormedMessageYieldsRecord : Prop :=
  ∀ (s : State) (k : Nat) (fs : List (Byte × List Byte)) (pad : List Byte),
    s.Rest → s.st = .idle → s.run = 0 → 16 ≤ k → k ≤ 31 → pad.length ≤ 2 →
    (pad ≠ [] ∨ ∀ f ∈ fs.getLast?, f.2 ≠ []) →
    1 ≤ (fs.flatMap (fun f => tlv f.1 f.2) ++ pad).length →
    (fs.flatMap (fun f => tlv f.1 f.2) ++ pad).length ≤ s.cfg.maxLen →
    ∃ t, feed (pre k ++ frame (fs.flatMap (fun f => tlv f.1 f.2) ++ pad)) s = .next t ∧
      t.st = .idle ∧ t.out.record = some (recordOf fs) ∧ t.out.err = .none

/-- R49: the sender's checksum byte makes the sum of all the message's bytes 0 modulo 256. -/
def Obligations.SenderChecksumSumsToZero : Prop :=
  ∀ p : List Byte, byteSum (frame p) = 0

/-- R80: the sum is of every byte of the message modulo 256, and the check passes exactly where it is 0; R81: an 8-bit
accumulator, dropping each carry, gives the same byte, which the spec derives from R80 and R32. -/
def Obligations.ChecksumIsModularSum : Prop :=
  ∀ bs : List Byte, (sum8 bs = 0x00 ↔ byteSum bs = 0) ∧ (bs.foldl (fun acc b => acc + b) 0x00#8).toNat = byteSum bs

/-- R83: a valid message with exactly one bit flipped is invalid, which the spec derives from R80. -/
def Obligations.SingleBitFlipDetected : Prop :=
  ∀ (bs : List Byte) (i k : Nat) (b : Byte), bs[i]? = some b → k < 8 → sum8 bs = 0x00 →
    sum8 (bs.set i (b ^^^ BitVec.twoPow 8 k)) ≠ 0x00

/-- R59, R113: the checksum byte's step traces at most `(len - 1) / 2` fields and at most 129 items, bounds the spec derives
from R86. -/
def Obligations.TraceIsBounded : Prop :=
  ∀ (s t : State) (b : Byte), s.Rest → s.st = .readingChecksum → exec (.cksum b) s = .next t →
    (t.out.trace.filter TraceItem.isField).length ≤ (s.len - 1) / 2 ∧ t.out.trace.length ≤ 129

/-- R22, R90: no field of a record is longer than `FIELD_CAP` = `MAX_LEN - 2`, a bound the spec derives from R86, R88 and
R91. At `MAX_LEN` = 1, where the spec gives the difference no value, the bound 0 is the model's choice
(notes/assumptions/22.md). -/
def Obligations.RecordFieldsFit : Prop :=
  ∀ (s t : State) (r : CallRecord), s.Inv → step s = .next t → t.out.record = some r →
    r.time.length ≤ s.cfg.maxLen - 2 ∧ r.number.length ≤ s.cfg.maxLen - 2 ∧ r.name.length ≤ s.cfg.maxLen - 2

/-- R115: a step between steps puts out at most one of a record, `ERR_CHECKSUM` and `ERR_DECODE`; only the step of a
checksum byte puts out any, and it puts out exactly one. The spec derives it from R64, R65, R66, R69 and R91. -/
def Obligations.OneOutcomePerStep : Prop :=
  ∀ s t : State, s.Rest → step s = .next t →
    (t.out.record.isSome = true → t.out.err = .none) ∧
    (t.out.record.isSome = true ∨ t.out.err ≠ .none → s.st = .readingChecksum) ∧
    (∀ c rest, s.input = c :: rest → c.rst = false → c.inValid = true → s.st = .readingChecksum →
      (t.out.record.isSome = true ↔ t.out.err = .none))

/-- R25: every step keeps the invariant, which the spec derives by induction on the number of steps. Its row for a state in
which a payload is walked is the model's own (notes/assumptions/7.md). -/
def Obligations.StepKeepsInv : Prop :=
  ∀ s t : State, s.Inv → step s = .next t → t.Inv

/-- R21: a step that begins with no payload being walked ends so: the decoder's working values do not outlive it. -/
def Obligations.StepEndsItsWalk : Prop :=
  ∀ s t : State, s.walk = none → step s = .next t → t.walk = none

/-- R25, R29: the state after reset meets the invariant, with no walk. -/
def Obligations.ResetMeetsInv : Prop := State.reset.Rest

/-- R60, R119: from every state that meets the invariant a step answers a next state: no fault, no refusal, no stuck
state. States in which a payload is walked are the model's own (notes/assumptions/7.md). -/
def Obligations.StepIsTotal : Prop :=
  ∀ s : State, s.Inv → ∃ t, step s = .next t

/-- R29: the values after reset. All but `st` = IDLE are the spec's decision D3. -/
def Obligations.ResetValues : Prop :=
  State.reset.st = .idle ∧ State.reset.run = 0 ∧ State.reset.hold = 0 ∧ State.reset.remain = 0 ∧
    State.reset.wr = 0 ∧ State.reset.len = 0 ∧ State.reset.out = { record := none, err := .none, trace := [] } ∧
    State.reset.walk = none

/-- R130: a cycle with `rst` = 1, in any state and whatever `in_valid` is, leaves IDLE, every counter 0 and the idle
output; the byte is not accepted. What it leaves in `buf` is not stated: R29 leaves it open. The input `rst` is the spec's
decisions D2 and D3; that the cycle keeps `MAX_LEN` and the later input and samples `verbose` is the model's choice
(notes/assumptions/18.md). -/
def Obligations.RstCycleResets : Prop :=
  ∀ (s : State) (c : Cycle) (rest : List Cycle), s.walk = none → s.input = c :: rest → c.rst = true →
    ∃ m, step s =
      .next (State.idleWith { s with buf := m, verbose := c.verbose, input := rest } Out.idle)

/-- R23, R127: a cycle with `in_valid` = 0 changes no state and its output is idle (the spec's decisions D2 and D24). That
a host that presents no further cycle is an empty list, which holds the state too, is the model's choice
(notes/assumptions/2.md). -/
def Obligations.NoByteHoldsState : Prop :=
  ∀ s : State, s.walk = none →
    (∀ c rest, s.input = c :: rest → c.rst = false → c.inValid = false →
      step s = .next { s with verbose := c.verbose, input := rest, out := Out.idle }) ∧
    (s.input = [] → step s = .next { s with out := Out.idle })

/-- A step runs the decoded instruction: where the next cycle presents a byte, `step` is `exec` of the instruction the
byte decodes to in the synchronizer state, after the cycle's pins are sampled. -/
def Obligations.StepRunsPresentedByte : Prop :=
  ∀ (s : State) (c : Cycle) (rest : List Cycle) (i : Instr), s.walk = none → s.input = c :: rest →
    c.rst = false → c.inValid = true → decode s.cfg (.sync s.st) [c.inByte] = .ok (i, []) →
    step s = exec i { s with verbose := c.verbose, input := rest }

/-- A step runs the decoded instruction inside a walk: where more than 2 bytes remain (R86), `step` is `exec` of the
instruction the payload's bytes at the cursor decode to. The model's choice of step there: notes/assumptions/7.md. -/
def Obligations.StepRunsFieldAtCursor : Prop :=
  ∀ (s : State) (w : Walk) (i : Instr) (rest : List Byte), s.Inv → s.walk = some w → 2 < w.rem →
    decode s.cfg .field (s.cells (2 + w.cur) w.rem) = .ok (i, rest) → step s = exec i s

/-- R87, R100: where fewer than 3 bytes remain the walk ends: the record is put out and the block is in IDLE (R69).
The leftover bytes are ignored. That a step from inside a walk is one turn of the loop or its end is the model's choice
(notes/assumptions/7.md). -/
def Obligations.WalkEndPutsOutRecord : Prop :=
  ∀ (s : State) (w : Walk), s.Inv → s.walk = some w → w.rem ≤ 2 →
    step s =
      .next (s.idleWith
        { record := some w.record, err := .none, trace := s.out.trace ++ traced s.verbose [.recordOut] })

/-- Sample words of the encoding, written out from R51, R52 and R46: a few bytes of each family decode to what they
stand for, at `MAX_LEN` = 255 and 253. -/
def Obligations.SampleWordsDecode : Prop :=
  decode { maxLen := 255 } (.sync .idle) [0x55] = .ok (.idlePre, []) ∧
    decode { maxLen := 255 } (.sync .sync) [0x80] = .ok (.syncType, []) ∧
    decode { maxLen := 255 } (.sync .readingLength) [0xFE] = .ok (.lenOk 0xFE, []) ∧
    decode { maxLen := 253 } (.sync .readingLength) [0xFE] = .ok (.lenOver 0xFE, []) ∧
    decode { maxLen := 255 } .field [0x04, 0x01, 0x4F] = .ok (.tlvNumberAbsent 0x01, [0x4F]) ∧
    decode { maxLen := 255 } .field [0x09, 0x00, 0x09] = .ok (.tlvOther 0x09 0x00, [0x09]) ∧
    decode { maxLen := 255 } .message [0x80, 0x03, 0x04, 0x01, 0x4F, 0x29] =
      .ok (.mdmfFrame [0x04, 0x01, 0x4F] 0x29, [])

/-- The decoder and the encoder agree, both written from R46, R47, R51 and R52; no rule states it. Decoding an encoded
well-formed instruction gives it back, with the bytes after it: every constructor, every
operand. A field's header is only read where a byte follows it (R86). -/
def Obligations.DecodeOfEncode : Prop :=
  ∀ (cfg : Config) (i : Instr) (rest : List Byte), cfg.Wf → i.wf cfg = true → (i.context = .field → rest ≠ []) →
    decode cfg i.context (encode i ++ rest) = .ok (i, rest)

/-- No rule states it: what the decoder gives is well-formed, is read in the context it was asked for, and encodes to the
very bytes it was read from: no bit is dropped and none has two readings. -/
def Obligations.DecodedIsEncoded : Prop :=
  ∀ (cfg : Config) (ctx : Context) (bs rest : List Byte) (i : Instr), cfg.Wf →
    decode cfg ctx bs = .ok (i, rest) → i.wf cfg = true ∧ i.context = ctx ∧ encode i ++ rest = bs

/-- R56: a decoder written from the table alone (rows of the context, match and mask, condition, lowest priority
number) selects the row of the instruction the decoder gives. -/
def Obligations.TableSelectsDecoder : Prop :=
  ∀ (cfg : Config) (st : SyncState) (b n : Byte),
    tableSelect cfg (.sync st) b = some (decodeByte cfg st b).mnemonic ∧
      tableSelect cfg .field b = some (decodeTag b n).mnemonic

/-- R78: the complete list of transitions of `st`, as the state and the byte decide it. -/
def Obligations.TransitionsOfSt : Prop :=
  ∀ (s : State) (c : Cycle) (rest : List Cycle), s.Rest → s.input = c :: rest → c.rst = false → c.inValid = true →
    ∃ t, step s = .next t ∧ t.st = nextSt s c.inByte

/-- R78: from every locked state the block is back in IDLE after at most `16 + 1 + MAX_LEN + 1` bytes, whatever they are,
a bound the spec derives from R61 to R69. -/
def Obligations.LockedStateIsLeft : Prop :=
  ∀ (s : State) (bs : List Byte), s.Rest → s.st ≠ .idle → bs.length = 16 + 1 + s.cfg.maxLen + 1 →
    ∃ k t, 1 ≤ k ∧ k ≤ bs.length ∧ feed (bs.take k) s = .next t ∧ t.st = .idle

/-- R73: once the Length is captured, the remaining payload bytes and the checksum byte, whatever their values, are
accepted as this message before the block returns to IDLE, and it is in IDLE right after them. The spec derives it from R67,
R68 and R69. -/
def Obligations.MessageRunsToItsEnd : Prop :=
  ∀ (s : State) (bs : List Byte), s.Rest → s.st = .readingData → bs.length = s.remain + 1 →
    (∀ k, k ≤ s.remain →
      ∃ u, feed (bs.take k) s = .next u ∧ u.st = if k < s.remain then .readingData else .readingChecksum) ∧
    ∃ t, feed bs s = .next t ∧ t.st = .idle

/-- R79: the lock condition, which the spec derives from R61 to R64. -/
def Obligations.LockCondition : Prop :=
  ∀ (s : State) (N : Nat), s.Rest → s.st = .idle →
    ∃ t, feed (List.replicate N 0x55#8 ++ [0x80#8]) s = .next t ∧
      t.st = if 16 ≤ (s.run + N) % 32 then .readingLength else .idle

/-- R64, R134: between the last marker byte and the type byte at most `hold - 1` other bytes may arrive; the byte that
spends the last of the budget leaves the block in IDLE with nothing counted. The spec derives it from R64. -/
def Obligations.HoldWindow : Prop :=
  ∀ (s : State) (bs : List Byte), s.Rest → s.st = .sync → (∀ b ∈ bs, b ≠ 0x80) →
    (bs.length < s.hold → ∃ t, feed (bs ++ [0x80]) s = .next t ∧ t.st = .readingLength) ∧
    (bs.length = s.hold → ∃ t, feed bs s = .next t ∧ t.st = .idle ∧ t.run = 0)

/-- R35, R109: cells that no byte of the current message has been stored in influence neither a later output nor any
state but themselves: two states that differ in such cells only take steps to two states that differ in such cells
only, with the same output. The spec derives it from R25, R32 and R34. -/
def Obligations.StaleCellsInvisible : Prop :=
  ∀ s t : State, s.Inv → t.Inv → SameButStale s t →
    ∃ s' t', step s = .next s' ∧ step t = .next t' ∧ SameButStale s' t'

/-- R120, R132: two states in IDLE with nothing counted, such as the state after reset and the state any message or
condition leaves, give the same outputs on every stream, whatever their buffers hold. The spec derives it from R19 and
R29. -/
def Obligations.IdleStatesIndistinguishable : Prop :=
  ∀ (s t : State) (bs : List Byte), s.Rest → t.Rest → s.st = .idle → t.st = .idle → s.run = 0 → t.run = 0 →
    s.cfg = t.cfg → s.verbose = t.verbose → outputs bs s = outputs bs t

/-- R19, R120: a step that leaves a locked state for IDLE, whether it ends a message or abandons one, leaves the state
that reset leaves, but for `buf` and the step's output. That the counters are cleared is the spec's decision D8. -/
def Obligations.ReturnToIdleIsReset : Prop :=
  ∀ s t : State, s.Rest → step s = .next t → s.st ≠ .idle → t.st = .idle →
    t = { State.reset with cfg := s.cfg, buf := t.buf, verbose := t.verbose, input := t.input, out := t.out }

/-- R20: the level of `verbose` in a cycle decides only the trace of its step: the next state, `rec` and `err` are the
same at either level. -/
def Obligations.VerboseOnlyTraces : Prop :=
  ∀ (s : State) (c : Cycle) (rest : List Cycle) (v : Bool), s.walk = none → s.input = c :: rest →
    mapNext State.untraced (step s) = mapNext State.untraced (step { s with input := { c with verbose := v } :: rest })

/-- R36: chunk-boundary independence: cycles without a byte, wherever they fall, do not change the state the bytes
lead to, nor the output of the last step where that step accepts a byte. The spec derives it from R23 and R60. -/
def Obligations.GapsDoNotMatter : Prop :=
  ∀ (s : State) (cs : List Cycle), s.Rest → (∀ c ∈ cs, c.rst = false ∧ c.verbose = s.verbose) →
    ∃ t u, feed (acceptedBytes cs) s = .next t ∧
      Host.Core.run Sys2Proof.core cs.length ({ s with input := cs } : State) = .next u ∧
      u = { t with input := [], out := u.out } ∧ (∀ c ∈ cs.getLast?, c.inValid = true → u.out = t.out)

/-- R17: the captured Length does not change in READING_DATA or READING_CHECKSUM but by the return to IDLE that ends
the message. -/
def Obligations.LengthStaysFixed : Prop :=
  ∀ s t : State, s.Rest → step s = .next t → s.st = .readingData ∨ s.st = .readingChecksum →
    (t.len = s.len ∧ t.st ≠ .idle) ∨ (t.len = 0 ∧ t.st = .idle)

/-- R32: a step stores to the cell at the write cursor or to none: every other cell reads as before, unless the step is
a reset. -/
def Obligations.StepStoresOnlyAtCursor : Prop :=
  ∀ s t : State, s.Rest → step s = .next t → (∀ c ∈ s.input.head?, c.rst = false) →
    ∀ a, a ≠ s.wr → t.buf.read a = s.buf.read a
end

