-- ==== Sys2Proof/Laws/State.lean ====
section
/-! SUPPORT. Each field after each named update of the state, and the outputs after each write. -/

namespace Sys2Proof.Machine

open Sys2Proof

@[simp] theorem State.clearOut_cfg (s : State) : s.clearOut.cfg = s.cfg := rfl
@[simp] theorem State.clearOut_st (s : State) : s.clearOut.st = s.st := rfl
@[simp] theorem State.clearOut_run (s : State) : s.clearOut.run = s.run := rfl
@[simp] theorem State.clearOut_hold (s : State) : s.clearOut.hold = s.hold := rfl
@[simp] theorem State.clearOut_remain (s : State) : s.clearOut.remain = s.remain := rfl
@[simp] theorem State.clearOut_wr (s : State) : s.clearOut.wr = s.wr := rfl
@[simp] theorem State.clearOut_len (s : State) : s.clearOut.len = s.len := rfl
@[simp] theorem State.clearOut_buf (s : State) : s.clearOut.buf = s.buf := rfl
@[simp] theorem State.clearOut_walk (s : State) : s.clearOut.walk = s.walk := rfl
@[simp] theorem State.clearOut_verbose (s : State) : s.clearOut.verbose = s.verbose := rfl
@[simp] theorem State.clearOut_input (s : State) : s.clearOut.input = s.input := rfl
@[simp] theorem State.clearOut_out (s : State) : s.clearOut.out = Out.idle := rfl

@[simp] theorem State.emit_cfg (t : TraceItem) (s : State) : (s.emit t).cfg = s.cfg := rfl
@[simp] theorem State.emit_st (t : TraceItem) (s : State) : (s.emit t).st = s.st := rfl
@[simp] theorem State.emit_run (t : TraceItem) (s : State) : (s.emit t).run = s.run := rfl
@[simp] theorem State.emit_hold (t : TraceItem) (s : State) : (s.emit t).hold = s.hold := rfl
@[simp] theorem State.emit_remain (t : TraceItem) (s : State) : (s.emit t).remain = s.remain := rfl
@[simp] theorem State.emit_wr (t : TraceItem) (s : State) : (s.emit t).wr = s.wr := rfl
@[simp] theorem State.emit_len (t : TraceItem) (s : State) : (s.emit t).len = s.len := rfl
@[simp] theorem State.emit_buf (t : TraceItem) (s : State) : (s.emit t).buf = s.buf := rfl
@[simp] theorem State.emit_walk (t : TraceItem) (s : State) : (s.emit t).walk = s.walk := rfl
@[simp] theorem State.emit_verbose (t : TraceItem) (s : State) : (s.emit t).verbose = s.verbose := rfl
@[simp] theorem State.emit_input (t : TraceItem) (s : State) : (s.emit t).input = s.input := rfl
@[simp] theorem State.emit_out (t : TraceItem) (s : State) : (s.emit t).out = s.out.emit s.verbose t := rfl

@[simp] theorem State.setErr_cfg (e : Err) (s : State) : (s.setErr e).cfg = s.cfg := rfl
@[simp] theorem State.setErr_st (e : Err) (s : State) : (s.setErr e).st = s.st := rfl
@[simp] theorem State.setErr_run (e : Err) (s : State) : (s.setErr e).run = s.run := rfl
@[simp] theorem State.setErr_hold (e : Err) (s : State) : (s.setErr e).hold = s.hold := rfl
@[simp] theorem State.setErr_remain (e : Err) (s : State) : (s.setErr e).remain = s.remain := rfl
@[simp] theorem State.setErr_wr (e : Err) (s : State) : (s.setErr e).wr = s.wr := rfl
@[simp] theorem State.setErr_len (e : Err) (s : State) : (s.setErr e).len = s.len := rfl
@[simp] theorem State.setErr_buf (e : Err) (s : State) : (s.setErr e).buf = s.buf := rfl
@[simp] theorem State.setErr_walk (e : Err) (s : State) : (s.setErr e).walk = s.walk := rfl
@[simp] theorem State.setErr_verbose (e : Err) (s : State) : (s.setErr e).verbose = s.verbose := rfl
@[simp] theorem State.setErr_input (e : Err) (s : State) : (s.setErr e).input = s.input := rfl
@[simp] theorem State.setErr_out (e : Err) (s : State) : (s.setErr e).out = { s.out with err := e } := rfl

@[simp] theorem State.setRecord_cfg (r : CallRecord) (s : State) : (s.setRecord r).cfg = s.cfg := rfl
@[simp] theorem State.setRecord_st (r : CallRecord) (s : State) : (s.setRecord r).st = s.st := rfl
@[simp] theorem State.setRecord_run (r : CallRecord) (s : State) : (s.setRecord r).run = s.run := rfl
@[simp] theorem State.setRecord_hold (r : CallRecord) (s : State) : (s.setRecord r).hold = s.hold := rfl
@[simp] theorem State.setRecord_remain (r : CallRecord) (s : State) : (s.setRecord r).remain = s.remain := rfl
@[simp] theorem State.setRecord_wr (r : CallRecord) (s : State) : (s.setRecord r).wr = s.wr := rfl
@[simp] theorem State.setRecord_len (r : CallRecord) (s : State) : (s.setRecord r).len = s.len := rfl
@[simp] theorem State.setRecord_buf (r : CallRecord) (s : State) : (s.setRecord r).buf = s.buf := rfl
@[simp] theorem State.setRecord_walk (r : CallRecord) (s : State) : (s.setRecord r).walk = s.walk := rfl
@[simp] theorem State.setRecord_verbose (r : CallRecord) (s : State) : (s.setRecord r).verbose = s.verbose := rfl
@[simp] theorem State.setRecord_input (r : CallRecord) (s : State) : (s.setRecord r).input = s.input := rfl
@[simp] theorem State.setRecord_out (r : CallRecord) (s : State) : (s.setRecord r).out = { s.out with record := some r } := rfl

@[simp] theorem State.gotoIdle_cfg (s : State) : s.gotoIdle.cfg = s.cfg := rfl
@[simp] theorem State.gotoIdle_st (s : State) : s.gotoIdle.st = .idle := rfl
@[simp] theorem State.gotoIdle_run (s : State) : s.gotoIdle.run = 0 := rfl
@[simp] theorem State.gotoIdle_hold (s : State) : s.gotoIdle.hold = 0 := rfl
@[simp] theorem State.gotoIdle_remain (s : State) : s.gotoIdle.remain = 0 := rfl
@[simp] theorem State.gotoIdle_wr (s : State) : s.gotoIdle.wr = 0 := rfl
@[simp] theorem State.gotoIdle_len (s : State) : s.gotoIdle.len = 0 := rfl
@[simp] theorem State.gotoIdle_buf (s : State) : s.gotoIdle.buf = s.buf := rfl
@[simp] theorem State.gotoIdle_walk (s : State) : s.gotoIdle.walk = s.walk := rfl
@[simp] theorem State.gotoIdle_verbose (s : State) : s.gotoIdle.verbose = s.verbose := rfl
@[simp] theorem State.gotoIdle_input (s : State) : s.gotoIdle.input = s.input := rfl
@[simp] theorem State.gotoIdle_out (s : State) : s.gotoIdle.out = s.out := rfl

@[simp] theorem State.endWalk_cfg (s : State) : s.endWalk.cfg = s.cfg := rfl
@[simp] theorem State.endWalk_st (s : State) : s.endWalk.st = s.st := rfl
@[simp] theorem State.endWalk_run (s : State) : s.endWalk.run = s.run := rfl
@[simp] theorem State.endWalk_hold (s : State) : s.endWalk.hold = s.hold := rfl
@[simp] theorem State.endWalk_remain (s : State) : s.endWalk.remain = s.remain := rfl
@[simp] theorem State.endWalk_wr (s : State) : s.endWalk.wr = s.wr := rfl
@[simp] theorem State.endWalk_len (s : State) : s.endWalk.len = s.len := rfl
@[simp] theorem State.endWalk_buf (s : State) : s.endWalk.buf = s.buf := rfl
@[simp] theorem State.endWalk_walk (s : State) : s.endWalk.walk = none := rfl
@[simp] theorem State.endWalk_verbose (s : State) : s.endWalk.verbose = s.verbose := rfl
@[simp] theorem State.endWalk_input (s : State) : s.endWalk.input = s.input := rfl
@[simp] theorem State.endWalk_out (s : State) : s.endWalk.out = s.out := rfl

@[simp] theorem State.raise_cfg (c : Condition) (s : State) : (s.raise c).cfg = s.cfg := rfl
@[simp] theorem State.raise_st (c : Condition) (s : State) : (s.raise c).st = .idle := rfl
@[simp] theorem State.raise_run (c : Condition) (s : State) : (s.raise c).run = 0 := rfl
@[simp] theorem State.raise_hold (c : Condition) (s : State) : (s.raise c).hold = 0 := rfl
@[simp] theorem State.raise_remain (c : Condition) (s : State) : (s.raise c).remain = 0 := rfl
@[simp] theorem State.raise_wr (c : Condition) (s : State) : (s.raise c).wr = 0 := rfl
@[simp] theorem State.raise_len (c : Condition) (s : State) : (s.raise c).len = 0 := rfl
@[simp] theorem State.raise_buf (c : Condition) (s : State) : (s.raise c).buf = s.buf := rfl
@[simp] theorem State.raise_walk (c : Condition) (s : State) : (s.raise c).walk = none := rfl
@[simp] theorem State.raise_verbose (c : Condition) (s : State) : (s.raise c).verbose = s.verbose := rfl
@[simp] theorem State.raise_input (c : Condition) (s : State) : (s.raise c).input = s.input := rfl
@[simp] theorem State.raise_out (c : Condition) (s : State) : (s.raise c).out = Out.emit s.verbose c.item { s.out with err := c.err } := rfl

@[simp] theorem State.holdCycle_cfg (s : State) : s.holdCycle.cfg = s.cfg := rfl
@[simp] theorem State.holdCycle_st (s : State) : s.holdCycle.st = s.st := rfl
@[simp] theorem State.holdCycle_run (s : State) : s.holdCycle.run = s.run := rfl
@[simp] theorem State.holdCycle_hold (s : State) : s.holdCycle.hold = s.hold := rfl
@[simp] theorem State.holdCycle_remain (s : State) : s.holdCycle.remain = s.remain := rfl
@[simp] theorem State.holdCycle_wr (s : State) : s.holdCycle.wr = s.wr := rfl
@[simp] theorem State.holdCycle_len (s : State) : s.holdCycle.len = s.len := rfl
@[simp] theorem State.holdCycle_buf (s : State) : s.holdCycle.buf = s.buf := rfl
@[simp] theorem State.holdCycle_walk (s : State) : s.holdCycle.walk = s.walk := rfl
@[simp] theorem State.holdCycle_verbose (s : State) : s.holdCycle.verbose = s.verbose := rfl
@[simp] theorem State.holdCycle_input (s : State) : s.holdCycle.input = s.input := rfl
@[simp] theorem State.holdCycle_out (s : State) : s.holdCycle.out = Out.idle := rfl

@[simp] theorem State.resetCycle_cfg (s : State) : s.resetCycle.cfg = s.cfg := rfl
@[simp] theorem State.resetCycle_st (s : State) : s.resetCycle.st = .idle := rfl
@[simp] theorem State.resetCycle_run (s : State) : s.resetCycle.run = 0 := rfl
@[simp] theorem State.resetCycle_hold (s : State) : s.resetCycle.hold = 0 := rfl
@[simp] theorem State.resetCycle_remain (s : State) : s.resetCycle.remain = 0 := rfl
@[simp] theorem State.resetCycle_wr (s : State) : s.resetCycle.wr = 0 := rfl
@[simp] theorem State.resetCycle_len (s : State) : s.resetCycle.len = 0 := rfl
@[simp] theorem State.resetCycle_buf (s : State) : s.resetCycle.buf = [] := rfl
@[simp] theorem State.resetCycle_walk (s : State) : s.resetCycle.walk = none := rfl
@[simp] theorem State.resetCycle_verbose (s : State) : s.resetCycle.verbose = s.verbose := rfl
@[simp] theorem State.resetCycle_input (s : State) : s.resetCycle.input = s.input := rfl
@[simp] theorem State.resetCycle_out (s : State) : s.resetCycle.out = Out.idle := rfl

@[simp] theorem State.sample_cfg (c : Cycle) (rest : List Cycle) (s : State) : (s.sample c rest).cfg = s.cfg := rfl
@[simp] theorem State.sample_st (c : Cycle) (rest : List Cycle) (s : State) : (s.sample c rest).st = s.st := rfl
@[simp] theorem State.sample_run (c : Cycle) (rest : List Cycle) (s : State) : (s.sample c rest).run = s.run := rfl
@[simp] theorem State.sample_hold (c : Cycle) (rest : List Cycle) (s : State) : (s.sample c rest).hold = s.hold := rfl
@[simp] theorem State.sample_remain (c : Cycle) (rest : List Cycle) (s : State) : (s.sample c rest).remain = s.remain := rfl
@[simp] theorem State.sample_wr (c : Cycle) (rest : List Cycle) (s : State) : (s.sample c rest).wr = s.wr := rfl
@[simp] theorem State.sample_len (c : Cycle) (rest : List Cycle) (s : State) : (s.sample c rest).len = s.len := rfl
@[simp] theorem State.sample_buf (c : Cycle) (rest : List Cycle) (s : State) : (s.sample c rest).buf = s.buf := rfl
@[simp] theorem State.sample_walk (c : Cycle) (rest : List Cycle) (s : State) : (s.sample c rest).walk = s.walk := rfl
@[simp] theorem State.sample_verbose (c : Cycle) (rest : List Cycle) (s : State) : (s.sample c rest).verbose = c.verbose := rfl
@[simp] theorem State.sample_input (c : Cycle) (rest : List Cycle) (s : State) : (s.sample c rest).input = rest := rfl
@[simp] theorem State.sample_out (c : Cycle) (rest : List Cycle) (s : State) : (s.sample c rest).out = s.out := rfl

@[simp] theorem State.idleWith_cfg (s : State) (o : Out) : (s.idleWith o).cfg = s.cfg := rfl
@[simp] theorem State.idleWith_st (s : State) (o : Out) : (s.idleWith o).st = .idle := rfl
@[simp] theorem State.idleWith_run (s : State) (o : Out) : (s.idleWith o).run = 0 := rfl
@[simp] theorem State.idleWith_hold (s : State) (o : Out) : (s.idleWith o).hold = 0 := rfl
@[simp] theorem State.idleWith_remain (s : State) (o : Out) : (s.idleWith o).remain = 0 := rfl
@[simp] theorem State.idleWith_wr (s : State) (o : Out) : (s.idleWith o).wr = 0 := rfl
@[simp] theorem State.idleWith_len (s : State) (o : Out) : (s.idleWith o).len = 0 := rfl
@[simp] theorem State.idleWith_buf (s : State) (o : Out) : (s.idleWith o).buf = s.buf := rfl
@[simp] theorem State.idleWith_walk (s : State) (o : Out) : (s.idleWith o).walk = none := rfl
@[simp] theorem State.idleWith_verbose (s : State) (o : Out) : (s.idleWith o).verbose = s.verbose := rfl
@[simp] theorem State.idleWith_input (s : State) (o : Out) : (s.idleWith o).input = s.input := rfl
@[simp] theorem State.idleWith_out (s : State) (o : Out) : (s.idleWith o).out = o := rfl

@[simp] theorem Out.idle_record : Out.idle.record = none := rfl
@[simp] theorem Out.idle_err : Out.idle.err = .none := rfl
@[simp] theorem Out.idle_trace : Out.idle.trace = [] := rfl
@[simp] theorem Out.emit_record (v : Bool) (t : TraceItem) (o : Out) : (o.emit v t).record = o.record := rfl
@[simp] theorem Out.emit_err (v : Bool) (t : TraceItem) (o : Out) : (o.emit v t).err = o.err := rfl

/-- The trace grows by what `traced` keeps of the item. -/
theorem Out.emit_trace (v : Bool) (t : TraceItem) (o : Out) : (o.emit v t).trace = o.trace ++ traced v [t] := by
  cases v <;> simp [Out.emit, traced]

/-- An item put out, as one update. -/
theorem Out.emit_eq (v : Bool) (t : TraceItem) (o : Out) :
    o.emit v t = { record := o.record, err := o.err, trace := o.trace ++ traced v [t] } := by
  cases v <;> simp [Out.emit, traced]

/-- One item put out on an idle output is `traceOut`. -/
theorem Out.emit_idle (v : Bool) (t : TraceItem) : Out.idle.emit v t = traceOut v [t] := by
  cases v <;> rfl

/-- A condition raised, as one update. -/
theorem State.raise_eq (c : Condition) (s : State) :
    s.raise c = s.idleWith (Out.emit s.verbose c.item { s.out with err := c.err }) := rfl

@[simp] theorem andThen_next (s : State) (f : State → Host.Outcome State Fault Refusal) :
    andThen (.next s) f = f s := rfl
@[simp] theorem andThen_fault (r : Fault) (f : State → Host.Outcome State Fault Refusal) :
    andThen (.fault r) f = .fault r := rfl
@[simp] theorem andThen_refused (r : Refusal) (f : State → Host.Outcome State Fault Refusal) :
    andThen (.refused r) f = .refused r := rfl

@[simp] theorem mapNext_next (f : State → State) (s : State) : mapNext f (.next s) = .next (f s) := rfl
@[simp] theorem mapNext_fault (f : State → State) (r : Fault) : mapNext f (.fault r) = .fault r := rfl
@[simp] theorem mapNext_refused (f : State → State) (r : Refusal) : mapNext f (.refused r) = .refused r := rfl

/-- Sequencing answers next only through a next state in between. -/
theorem andThen_eq_next {o : Host.Outcome State Fault Refusal} {f : State → Host.Outcome State Fault Refusal}
    {t : State} : andThen o f = .next t ↔ ∃ s, o = .next s ∧ f s = .next t := by
  cases o <;> simp [andThen]

end Sys2Proof.Machine
end

