-- ==== Sys2Proof/Laws/Ops.lean ====
section
/-! SUPPORT. One lemma for each shared operation that says everything it can do. -/

namespace Sys2Proof.Machine

open Sys2Proof

/-- The store primitive inside the buffer. -/
theorem State.storeByte_ok {s : State} (h : s.wr < s.cfg.bufSize) (b : Byte) :
    s.storeByte b = .ok { s with buf := s.buf.write s.wr b, wr := s.wr + 1 } := by
  simp [State.storeByte, h]

/-- The store primitive outside the buffer. -/
theorem State.storeByte_error {s : State} (h : s.cfg.bufSize ≤ s.wr) (b : Byte) :
    s.storeByte b = .error .storeOutsideBuffer := by
  simp [State.storeByte, Nat.not_lt.mpr h]

/-- If the store primitive answers a state, the cursor was inside the buffer and only `buf` and `wr` changed. -/
theorem State.storeByte_cases {s t : State} {b : Byte} (h : s.storeByte b = .ok t) :
    s.wr < s.cfg.bufSize ∧ t = { s with buf := s.buf.write s.wr b, wr := s.wr + 1 } := by
  unfold State.storeByte at h
  split at h
  · rename_i hw
    exact ⟨hw, by simpa using h.symm⟩
  · cases h

/-- The number of bytes `cells` gives. -/
@[simp] theorem State.cells_length (s : State) (a k : Nat) : (s.cells a k).length = k := by
  simp [State.cells]

@[simp] theorem State.cells_zero (s : State) (a : Nat) : s.cells a 0 = [] := rfl

theorem State.cells_succ (s : State) (a k : Nat) :
    s.cells a (k + 1) = (s.buf.read a).getD 0x00 :: s.cells (a + 1) k := by
  simp only [State.cells, List.range_succ_eq_map, List.map_cons, List.map_map, Nat.add_zero, List.cons.injEq, true_and]
  refine List.map_congr_left fun i _ => ?_
  show (s.buf.read (a + (i + 1))).getD 0x00 = (s.buf.read (a + 1 + i)).getD 0x00
  rw [Nat.add_right_comm, Nat.add_assoc]

/-- Cells up to a bound, then the cells after it. -/
theorem State.cells_append (s : State) (a j k : Nat) : s.cells a (j + k) = s.cells a j ++ s.cells (a + j) k := by
  induction j generalizing a with
  | zero => simp
  | succ j ih =>
    rw [Nat.add_right_comm, State.cells_succ, State.cells_succ, ih, List.cons_append]
    congr 3
    omega

theorem State.cells_drop (s : State) (a k n : Nat) (h : n ≤ k) : (s.cells a k).drop n = s.cells (a + n) (k - n) := by
  obtain ⟨j, rfl⟩ := Nat.exists_eq_add_of_le h
  rw [State.cells_append, List.drop_left' (by simp)]
  congr 1
  omega

theorem State.cells_take (s : State) (a k n : Nat) (h : n ≤ k) : (s.cells a k).take n = s.cells a n := by
  obtain ⟨j, rfl⟩ := Nat.exists_eq_add_of_le h
  rw [State.cells_append, List.take_left' (by simp)]

/-- Cells depend on the buffer's reads in their range alone. -/
theorem State.cells_congr {s t : State} {a k : Nat}
    (h : ∀ i, a ≤ i → i < a + k → s.buf.read i = t.buf.read i) : s.cells a k = t.cells a k := by
  refine List.map_congr_left fun i hi => ?_
  rw [h (a + i) (by omega) (by have := List.mem_range.mp hi; omega)]

/-- Reading a cell that lies inside the buffer and holds a byte. -/
theorem State.readCell_ok {s : State} {a : Nat} (hb : a < s.cfg.bufSize) (hw : s.Written a) :
    s.readCell a = .ok ((s.buf.read a).getD 0x00) := by
  obtain ⟨b, hb'⟩ := Option.isSome_iff_exists.mp hw
  simp [State.readCell, hb, hb']

/-- Reading cells that lie inside the buffer and hold bytes. -/
theorem State.readCells_ok {s : State} {a k : Nat} (hb : a + k ≤ s.cfg.bufSize)
    (hw : ∀ i, a ≤ i → i < a + k → s.Written i) : s.readCells a k = .ok (s.cells a k) := by
  induction k generalizing a with
  | zero => rfl
  | succ k ih =>
    rw [State.readCells, State.readCell_ok (by omega) (hw a (by omega) (by omega)),
      State.cells_succ]
    simp only [ih (a := a + 1) (by omega) fun i hi hi' => hw i (by omega) (by omega)]

/-- Reading payload bytes at indices below `len`, in cells that hold bytes. -/
theorem State.payloadBytes_ok {s : State} {i k : Nat} (hl : i + k ≤ s.len) (hb : 2 + (i + k) ≤ s.cfg.bufSize)
    (hw : ∀ a, 2 + i ≤ a → a < 2 + (i + k) → s.Written a) : s.payloadBytes i k = .ok (s.cells (2 + i) k) := by
  induction k generalizing i with
  | zero => rfl
  | succ k ih =>
    rw [State.payloadBytes, State.payloadByte, if_pos (by omega : i < s.len),
      State.readCell_ok (by omega) (hw (2 + i) (by omega) (by omega)), State.cells_succ]
    simp only [ih (i := i + 1) (by omega) (by omega) fun a ha ha' => hw a (by omega) (by omega)]
    rfl

/-- Reading a field's header at a cursor with 2 payload bytes left, in cells that hold bytes. -/
theorem State.headerBytes_ok {s : State} {w : Walk} (hl : w.cur + 2 ≤ s.len) (hb : 2 + s.len ≤ s.cfg.bufSize)
    (hw : ∀ a, a < 2 + s.len → s.Written a) :
    s.headerBytes w = .ok ((s.buf.read (2 + w.cur)).getD 0x00, (s.buf.read (2 + (w.cur + 1))).getD 0x00) := by
  simp only [State.headerBytes, State.payloadByte, if_pos (by omega : w.cur < s.len),
    if_pos (by omega : w.cur + 1 < s.len), State.readCell_ok (s := s) (a := 2 + w.cur) (by omega) (hw _ (by omega)),
    State.readCell_ok (s := s) (a := 2 + (w.cur + 1)) (by omega) (hw _ (by omega))]

end Sys2Proof.Machine
end

