-- ==== Sys2Proof/Laws/Decode.lean ====
section
/-! SUPPORT. The two dispatchers inside meanings agree with `exec` of the decoded instruction. -/

namespace Sys2Proof.Machine

open Sys2Proof

/-- `exec` of the instruction a byte decodes to is the step on that byte. -/
theorem exec_decodeByte (b : Byte) (s : State) : exec (decodeByte s.cfg s.st b) s = acceptByte b s := by
  unfold decodeByte acceptByte
  cases s.st <;> simp only <;> (repeat' split) <;> rfl

/-- `exec` of the instruction a tag decodes to is the decoder's case on that tag. -/
theorem exec_decodeTag (tag n : Byte) (s : State) : exec (decodeTag tag n) s = execTag tag n s := by
  unfold decodeTag execTag
  repeat' (split; · rfl)
  rfl

/-- The action of a tag on the record (42_mdmf_decoder.md R92 to R102). -/
def tagAction (tag : Byte) : List Byte → CallRecord → CallRecord :=
  if tag = 0x01 then storeTime
  else if tag = 0x02 ∨ tag = 0x04 then storeNumber
  else if tag = 0x07 ∨ tag = 0x08 then storeName
  else skipField

/-- The decoder's case on a tag is one turn with that tag's action. -/
theorem execTag_eq (tag n : Byte) (s : State) : execTag tag n s = fieldTurn (tagAction tag) tag n s := by
  by_cases h1 : tag = 0x01; · subst h1; rfl
  by_cases h2 : tag = 0x02; · subst h2; rfl
  by_cases h3 : tag = 0x03; · subst h3; rfl
  by_cases h4 : tag = 0x04; · subst h4; rfl
  by_cases h5 : tag = 0x05; · subst h5; rfl
  by_cases h6 : tag = 0x06; · subst h6; rfl
  by_cases h7 : tag = 0x07; · subst h7; rfl
  by_cases h8 : tag = 0x08; · subst h8; rfl
  by_cases h9 : tag = 0x0B; · subst h9; rfl
  simp only [execTag, tagAction, h1, h2, h3, h4, h5, h6, h7, h8, h9, if_false, or_self, execTlvOther]

/-- What a turn can do where a payload is walked: report a bounds violation, stop on a read, or pass the field. -/
theorem fieldTurn_cases (act : List Byte → CallRecord → CallRecord) (tag n : Byte) (s : State) (w : Walk)
    (hw : s.walk = some w) :
    (w.rem - 2 < n.toNat ∧
      fieldTurn act tag n s = .next (s.raise (.decodeError tag n (BitVec.ofNat 8 (w.rem - 2))))) ∨
    (n.toNat ≤ w.rem - 2 ∧ ∃ f, s.payloadBytes (w.cur + 2) n.toNat = .error f ∧
      fieldTurn act tag n s = .fault f) ∨
    (n.toNat ≤ w.rem - 2 ∧ ∃ v, s.payloadBytes (w.cur + 2) n.toNat = .ok v ∧
      fieldTurn act tag n s = .next (s.afterField w tag n (act v w.record))) := by
  unfold fieldTurn
  simp only [hw, Walk.takeHeader, lenOperand]
  by_cases h : w.rem - 2 < n.toNat
  · exact .inl ⟨h, by simp [h]⟩
  · refine .inr ?_
    cases hp : s.payloadBytes (w.cur + 2) n.toNat with
    | error f => exact .inl ⟨by omega, f, rfl, by simp [h]⟩
    | ok v =>
      refine .inr ⟨by omega, v, rfl, ?_⟩
      simp only [h, if_false, Host.Outcome.next.injEq]
      have ht := Out.emit_trace s.verbose (.field tag n) s.out
      unfold Out.emit at ht
      simp [State.emit, State.afterField, Walk.advance, lenOperand, Out.emit] at ht ⊢
      exact ht

/-- A turn where no payload is walked. -/
theorem fieldTurn_none (act : List Byte → CallRecord → CallRecord) (tag n : Byte) (s : State) (hw : s.walk = none) :
    fieldTurn act tag n s = .fault .decoderNotRunning := by
  simp [fieldTurn, hw]

end Sys2Proof.Machine
end

