-- ==== Sys2Proof/Laws/PerInstr.lean ====
section
/-! SUPPORT. What holds of every instruction as syntax, one lemma per constructor: a well-formed instruction's first
byte is one its own row of the opcode table applies to, and the encoding has the row's length (30_encoding.md R46, R51,
R52, R56). -/

namespace Sys2Proof.Laws.RowShape

open Sys2Proof Sys2Proof.Machine

/-- How many bytes follow the first in an instruction's encoding: none for a byte class, the Len byte for a field's
header, the Length byte, the payload and the checksum for a message. -/
def operandBytes : Instr → Nat
  | .mdmfFrame p _ => p.length + 2
  | i => if i.context = .field then 1 else 0

/-- The row of the opcode table that bears the instruction's mnemonic applies to the first byte of its encoding. -/
def Statement (i : Instr) : Prop :=
  ∀ cfg : Config, i.wf cfg = true →
    ∃ b bs, encode i = b :: bs ∧ bs.length = operandBytes i ∧
      ∃ r ∈ opcodeTable, r.mnemonic = i.mnemonic ∧ r.applies cfg i.context b = true

/-- A row fits an instruction whose first byte meets the row's mask, pattern and condition. -/
theorem of_row {i : Instr} (r : Row) (hr : r ∈ opcodeTable) (hm : r.mnemonic = i.mnemonic) (hc : r.ctx = i.context)
    (b : Byte) (bs : List Byte) (he : encode i = b :: bs) (hl : bs.length = operandBytes i)
    (hb : b &&& r.mask = r.pattern) (hk : ∀ cfg, i.wf cfg = true → r.cond.holds cfg b = true) : Statement i :=
  fun cfg hi => ⟨b, bs, he, hl, r, hr, hm, by simp [Row.applies, hc, hb, hk cfg hi]⟩

theorem idlePre : Statement .idlePre :=
  of_row ⟨"IDLE.PRE", .sync .idle, 0x55, 0xFF, 1, .always⟩ (by decide) rfl rfl preamble [] rfl rfl rfl (fun _ _ => rfl)

theorem idleOther (b : Byte) : Statement (.idleOther b) :=
  of_row ⟨"IDLE.OTHER", .sync .idle, 0x00, 0x00, 2, .always⟩ (by decide) rfl rfl b [] rfl rfl BitVec.and_zero (fun _ _ => rfl)

theorem syncType : Statement .syncType :=
  of_row ⟨"SYNC.TYPE", .sync .sync, 0x80, 0xFF, 1, .always⟩ (by decide) rfl rfl typeMdmf [] rfl rfl rfl (fun _ _ => rfl)

theorem syncOther (b : Byte) : Statement (.syncOther b) :=
  of_row ⟨"SYNC.OTHER", .sync .sync, 0x00, 0x00, 2, .always⟩ (by decide) rfl rfl b [] rfl rfl BitVec.and_zero (fun _ _ => rfl)

theorem lenZero : Statement .lenZero :=
  of_row ⟨"LEN.ZERO", .sync .readingLength, 0x00, 0xFF, 1, .always⟩ (by decide) rfl rfl 0x00 [] rfl rfl rfl (fun _ _ => rfl)

theorem lenOver (b : Byte) : Statement (.lenOver b) :=
  of_row ⟨"LEN.OVER", .sync .readingLength, 0x00, 0x00, 2, .aboveMaxLen⟩ (by decide) rfl rfl b [] rfl rfl BitVec.and_zero (fun _ h => h)

theorem lenOk (b : Byte) : Statement (.lenOk b) :=
  of_row ⟨"LEN.OK", .sync .readingLength, 0x00, 0x00, 3, .inLengthRange⟩ (by decide) rfl rfl b [] rfl rfl BitVec.and_zero (fun _ h => h)

theorem data (b : Byte) : Statement (.data b) :=
  of_row ⟨"DATA", .sync .readingData, 0x00, 0x00, 1, .always⟩ (by decide) rfl rfl b [] rfl rfl BitVec.and_zero (fun _ _ => rfl)

theorem cksum (b : Byte) : Statement (.cksum b) :=
  of_row ⟨"CKSUM", .sync .readingChecksum, 0x00, 0x00, 1, .always⟩ (by decide) rfl rfl b [] rfl rfl BitVec.and_zero (fun _ _ => rfl)

theorem tlvTime (n : Byte) : Statement (.tlvTime n) :=
  of_row ⟨"TLV.TIME", .field, 0x01, 0xFF, 1, .always⟩ (by decide) rfl rfl 0x01 [n] rfl rfl rfl (fun _ _ => rfl)

theorem tlvNumber (n : Byte) : Statement (.tlvNumber n) :=
  of_row ⟨"TLV.NUMBER", .field, 0x02, 0xFF, 1, .always⟩ (by decide) rfl rfl 0x02 [n] rfl rfl rfl (fun _ _ => rfl)

theorem tlvDn (n : Byte) : Statement (.tlvDn n) :=
  of_row ⟨"TLV.DN", .field, 0x03, 0xFF, 1, .always⟩ (by decide) rfl rfl 0x03 [n] rfl rfl rfl (fun _ _ => rfl)

theorem tlvNumberAbsent (n : Byte) : Statement (.tlvNumberAbsent n) :=
  of_row ⟨"TLV.NUMBER_ABSENT", .field, 0x04, 0xFF, 1, .always⟩ (by decide) rfl rfl 0x04 [n] rfl rfl rfl (fun _ _ => rfl)

theorem tlvRedir (n : Byte) : Statement (.tlvRedir n) :=
  of_row ⟨"TLV.REDIR", .field, 0x05, 0xFF, 1, .always⟩ (by decide) rfl rfl 0x05 [n] rfl rfl rfl (fun _ _ => rfl)

theorem tlvQualifier (n : Byte) : Statement (.tlvQualifier n) :=
  of_row ⟨"TLV.QUALIFIER", .field, 0x06, 0xFF, 1, .always⟩ (by decide) rfl rfl 0x06 [n] rfl rfl rfl (fun _ _ => rfl)

theorem tlvName (n : Byte) : Statement (.tlvName n) :=
  of_row ⟨"TLV.NAME", .field, 0x07, 0xFF, 1, .always⟩ (by decide) rfl rfl 0x07 [n] rfl rfl rfl (fun _ _ => rfl)

theorem tlvNameAbsent (n : Byte) : Statement (.tlvNameAbsent n) :=
  of_row ⟨"TLV.NAME_ABSENT", .field, 0x08, 0xFF, 1, .always⟩ (by decide) rfl rfl 0x08 [n] rfl rfl rfl (fun _ _ => rfl)

theorem tlvMwi (n : Byte) : Statement (.tlvMwi n) :=
  of_row ⟨"TLV.MWI", .field, 0x0B, 0xFF, 1, .always⟩ (by decide) rfl rfl 0x0B [n] rfl rfl rfl (fun _ _ => rfl)

theorem tlvOther (tag : Byte) (n : Byte) : Statement (.tlvOther tag n) :=
  of_row ⟨"TLV.OTHER", .field, 0x00, 0x00, 2, .always⟩ (by decide) rfl rfl tag [n] rfl rfl BitVec.and_zero (fun _ _ => rfl)

theorem mdmfFrame (p : List Byte) (ck : Byte) : Statement (.mdmfFrame p ck) :=
  of_row ⟨"MDMF.FRAME", .message, 0x80, 0xFF, 1, .always⟩ (by decide) rfl rfl typeMdmf (BitVec.ofNat 8 p.length :: (p ++ [ck])) rfl (by simp [operandBytes]) rfl (fun _ _ => rfl)

end Sys2Proof.Laws.RowShape
end

