-- ==== Sys2Proof/Tests/Slice0.lean ====
section
/-! SUPPORT. Tests: what WellFormed refuses, words decoded as 30_encoding.md spells them, single steps from the vectors of
95_test_vectors.md, and for every statement with hypotheses a state and operands that meet them. -/

namespace Sys2Proof.Tests

open Sys2Proof Sys2Proof.Machine

/-- Whether the outcome is a next state with the property. -/
def answers (o : Host.Outcome State Fault Refusal) (p : State → Bool) : Bool :=
  match o with
  | .next t => p t
  | .fault _ => false
  | .refused _ => false

/-- Whether the outcome is that fault. -/
def faults (o : Host.Outcome State Fault Refusal) (f : Fault) : Bool :=
  match o with
  | .next _ => false
  | .fault g => decide (g = f)
  | .refused _ => false

theorem of_answers {o : Host.Outcome State Fault Refusal} {p : State → Bool} (h : answers o p = true) :
    ∃ t, o = .next t ∧ p t = true := by
  cases o with
  | next t => exact ⟨t, rfl, h⟩
  | fault f => cases h
  | refused r => cases h

/-- `MAX_LEN` = 253, the other reading of 90_conflicts.md C2. -/
def cfg253 : Config := { maxLen := 253 }

/-- The reset state of the vectors: `verbose` = 1. -/
def base : State := { State.reset with verbose := true }

def idleAt (run : Nat) : State := { base with run := run }

def syncAt (hold : Nat) : State := { base with st := .sync, hold := hold }

def lengthState : State := { base with st := .readingLength, wr := 1, buf := cellsFrom 0 [0x80] }

/-- READING_DATA with the bytes `p` of a payload of `len` bytes stored. -/
def dataAt (len : Nat) (p : List Byte) : State :=
  { base with
    st := .readingData, len := len, remain := len - p.length, wr := p.length + 2,
    buf := cellsFrom 0 (0x80 :: BitVec.ofNat 8 len :: p) }

/-- READING_CHECKSUM with the payload `p` stored. -/
def checksumAt (p : List Byte) : State :=
  { base with
    st := .readingChecksum, len := p.length, wr := p.length + 2,
    buf := cellsFrom 0 (0x80 :: BitVec.ofNat 8 p.length :: p) }

/-- The walk of the payload `p` at the cursor `cur`, the record `r` so far. -/
def walkAt (p : List Byte) (cur : Nat) (r : CallRecord) : State :=
  { base with
    st := .readingChecksum, len := p.length, wr := p.length + 3,
    buf := cellsFrom 0 (frameCk p (senderChecksum p)),
    walk := some { cur := cur, rem := p.length - cur, tag := 0x00, n := 0x00, record := r },
    out := { record := none, err := .none, trace := [.cksOk] } }

/-- `s` with one more cycle to come, which presents `b`. -/
def presenting (b : Byte) (s : State) : State := { s with input := [byteCycle true b] }

/-- `State.Rest`'s clauses as a check, the row of R25 that `st` picks. -/
def restCheck (s : State) : Bool :=
  decide (s.cfg.Wf ∧ s.buf.wf ∧ s.CellsInside) &&
    match s.st with
    | .idle => decide s.IdleRow
    | .sync => decide s.SyncRow
    | .readingLength => decide s.LengthRow
    | .readingData => decide s.DataRow
    | .readingChecksum => decide s.ChecksumRow

theorem rest_of {s : State} (hw : s.walk = none) (h : restCheck s = true) : s.Rest := by
  obtain ⟨h, hr⟩ := Bool.and_eq_true_iff.mp h
  obtain ⟨hc, hm, hi⟩ := of_decide_eq_true h
  refine ⟨hw, hc, hm, hi, ?_⟩
  rw [hw]
  refine ⟨?_, ?_, ?_, ?_, ?_⟩ <;> (intro hst; rw [hst] at hr; exact of_decide_eq_true hr)

theorem inv_of {s : State} {w : Walk} (hw : s.walk = some w)
    (h : s.cfg.Wf ∧ s.buf.wf ∧ s.CellsInside ∧ s.WalkRow w) : s.Inv := by
  refine ⟨h.1, h.2.1, h.2.2.1, ?_⟩
  rw [hw]
  exact h.2.2.2

/-! ### What WellFormed refuses -/

theorem test_wf_refuses_preamble_as_other : (Instr.idleOther 0x55).wf .default = false := by decide

theorem test_wf_refuses_type_as_other : (Instr.syncOther 0x80).wf .default = false := by decide

theorem test_wf_refuses_length_not_over : (Instr.lenOver 0xFD).wf cfg253 = false := by decide

theorem test_wf_refuses_zero_length : (Instr.lenOk 0x00).wf .default = false := by decide

theorem test_wf_refuses_long_length : (Instr.lenOk 0xFE).wf cfg253 = false := by decide

theorem test_wf_refuses_named_tag_as_other :
    (Instr.tlvOther 0x08 0x01).wf .default = false ∧ (Instr.tlvOther 0x0B 0x01).wf .default = false := by decide

theorem test_wf_refuses_empty_message : (Instr.mdmfFrame [] 0x80).wf .default = false := by decide

theorem test_wf_refuses_long_message : (Instr.mdmfFrame [0x00, 0x00] 0x7E).wf { maxLen := 1 } = false := by decide

theorem test_wf_accepts_edges :
    (Instr.lenOver 0xFE).wf cfg253 = true ∧ (Instr.lenOk 0xFD).wf cfg253 = true ∧
      (Instr.tlvOther 0x09 0x00).wf .default = true ∧ (Instr.mdmfFrame [0xFF] 0x80).wf .default = true := by decide

/-! ### Words of the encoding, from R51, R52 and R46 -/

theorem test_decode_idle :
    decodeByte .default .idle 0b01010101 = .idlePre ∧ decodeByte .default .idle 0b01010100 = .idleOther 0x54 := by decide

theorem test_decode_sync :
    decodeByte .default .sync 0b10000000 = .syncType ∧ decodeByte .default .sync 0b01010101 = .syncOther 0x55 := by decide

theorem test_decode_length :
    decodeByte .default .readingLength 0b00000000 = .lenZero ∧
      decodeByte .default .readingLength 0b11111111 = .lenOk 0xFF ∧
      decodeByte cfg253 .readingLength 0b11111110 = .lenOver 0xFE ∧
      decodeByte cfg253 .readingLength 0b11111101 = .lenOk 0xFD := by decide

theorem test_decode_payload_and_checksum :
    decodeByte .default .readingData 0b10000000 = .data 0x80 ∧
      decodeByte .default .readingChecksum 0b01010101 = .cksum 0x55 := by decide

theorem test_decode_stored_tags :
    decodeTag 0b00000001 8 = .tlvTime 8 ∧ decodeTag 0b00000010 10 = .tlvNumber 10 ∧
      decodeTag 0b00000100 1 = .tlvNumberAbsent 1 ∧ decodeTag 0b00000111 4 = .tlvName 4 ∧
      decodeTag 0b00001000 1 = .tlvNameAbsent 1 := by decide

theorem test_decode_skipped_tags :
    decodeTag 0b00000011 2 = .tlvDn 2 ∧ decodeTag 0b00000101 1 = .tlvRedir 1 ∧
      decodeTag 0b00000110 1 = .tlvQualifier 1 ∧ decodeTag 0b00001011 1 = .tlvMwi 1 ∧
      decodeTag 0b00000000 0 = .tlvOther 0 0 ∧ decodeTag 0b00001001 0 = .tlvOther 9 0 ∧
      decodeTag 0b00001010 0 = .tlvOther 10 0 ∧ decodeTag 0b00001100 0 = .tlvOther 12 0 ∧
      decodeTag 0b11111111 1 = .tlvOther 0xFF 1 := by decide

/-- K4: `80 03 04 01 4F 29`. -/
theorem test_decode_message :
    decodeMessage .default [0x80, 0x03, 0x04, 0x01, 0x4F, 0x29] = .ok (.mdmfFrame [0x04, 0x01, 0x4F] 0x29, []) := by
  decide

/-- R53: a type other than 0x80, a Length of 0, a Length above `MAX_LEN`; R87: 2 bytes are padding. -/
theorem test_decode_rejects :
    decodeMessage .default [0x04, 0x01, 0x4F, 0x29] = .error (.badType 0x04) ∧
      decodeMessage .default [0x80, 0x00, 0x00] = .error .zeroLength ∧
      decodeMessage cfg253 [0x80, 0xFE, 0x00] = .error (.lengthOver 0xFE) ∧
      decodeMessage .default [0x80, 0x02, 0x00, 0x00] = .error .cutShort ∧
      decode .default .field [0x09, 0x00] = .error .padding := by decide

/-- R56: the table's rows, read by priority, agree at the bytes where classes meet. -/
theorem test_table_select :
    tableSelect .default (.sync .readingLength) 0x00 = some "LEN.ZERO" ∧
      tableSelect cfg253 (.sync .readingLength) 0xFE = some "LEN.OVER" ∧
      tableSelect cfg253 (.sync .readingLength) 0xFD = some "LEN.OK" ∧
      tableSelect .default .field 0x0B = some "TLV.MWI" ∧ tableSelect .default .field 0x0A = some "TLV.OTHER" ∧
      tableSelect .default .message 0x80 = some "MDMF.FRAME" := by decide

/-! ### Words of the opcode table, and the step that runs them -/

theorem test_table_words :
    decodeTableWord 8 0x55 = some .idlePre ∧ decodeTableWord 8 0x80 = some .syncType ∧
      decodeTableWord 8 0x00 = some .lenZero ∧ decodeTableWord 8 0x07 = some (.tlvName 0) ∧
      decodeTableWord 16 0x0407 = some (.tlvName 4) ∧ decodeTableWord 8 0x54 = some (.idleOther 0x54) ∧
      decodeTableWord 48 0x294F01040380 = some (.mdmfFrame [0x04, 0x01, 0x4F] 0x29) := by decide

theorem test_step_runs_placed_preamble :
    answers (step (State.reset.withFetchWord 8 0x55)) (fun t => t.st = .idle ∧ t.run = 1) = true := by decide

theorem test_step_runs_placed_type :
    answers (step (State.reset.withFetchWord 8 0x80)) (fun t => t.st = .readingLength ∧ t.wr = 1) = true := by decide

/-- The field `07 04` and a value of 4 zero bytes. -/
theorem test_step_runs_placed_name :
    answers (step (State.reset.withFetchWord 16 0x0407))
      (fun t => t.walk.map (fun w => w.record.name) = some [0x00, 0x00, 0x00, 0x00]) = true := by decide

theorem test_placed_states_rest :
    (State.reset.withFetchWord 8 0x55).Rest ∧ (State.reset.withFetchWord 8 0x80).Rest ∧
      (State.reset.withFetchWord 8 0x00).Rest :=
  ⟨rest_of rfl (by decide), rest_of rfl (by decide), rest_of rfl (by decide)⟩

theorem test_placed_field_inv : (State.reset.withFetchWord 16 0x0407).Inv := inv_of (w := Walk.start 6) rfl (by decide)

/-! ### Single steps of the synchronizer, from section 2 of 95_test_vectors.md -/

/-- Y2, Y3. -/
theorem test_idle_pre :
    answers (exec .idlePre (idleAt 14)) (fun t => t.st = .idle ∧ t.run = 15 ∧ t.out = Out.idle) = true ∧
      answers (exec .idlePre (idleAt 15))
        (fun t => t.st = .sync ∧ t.run = 0 ∧ t.hold = 16 ∧ t.out.trace = [.syncAcq]) = true := by decide

/-- Y4. -/
theorem test_idle_other :
    answers (exec (.idleOther 0x54) (idleAt 15)) (fun t => t.st = .idle ∧ t.run = 0 ∧ t.out = Out.idle) = true := by decide

/-- Y8. -/
theorem test_sync_type :
    answers (exec .syncType (syncAt 1))
      (fun t => t.st = .readingLength ∧ t.wr = 1 ∧ t.hold = 0 ∧ t.buf = [(0, 0x80)] ∧ t.out.trace = [.typeByte]) = true := by
  decide

/-- Y10, Y11. -/
theorem test_sync_other :
    answers (exec (.syncOther 0x00) (syncAt 2)) (fun t => t.st = .sync ∧ t.hold = 1) = true ∧
      answers (exec (.syncOther 0x55) (syncAt 1))
        (fun t => t.st = .idle ∧ t.run = 0 ∧ t.hold = 0 ∧ t.out.trace = [.syncLost] ∧ t.out.err = .none) = true := by decide

/-- Y13. -/
theorem test_len_zero :
    answers (exec .lenZero lengthState)
      (fun t => t.st = .idle ∧ t.wr = 0 ∧ t.out.trace = [.lenReject 0x00] ∧ t.out.err = .none) = true := by decide

/-- Y17. -/
theorem test_len_over :
    answers (exec (.lenOver 0xFF) { lengthState with cfg := cfg253 })
      (fun t => t.st = .idle ∧ t.wr = 0 ∧ t.out.trace = [.lenReject 0xFF]) = true := by decide

/-- Y16. -/
theorem test_len_ok :
    answers (exec (.lenOk 0xFF) lengthState)
      (fun t => t.st = .readingData ∧ t.len = 255 ∧ t.remain = 255 ∧ t.wr = 2 ∧ t.buf.read 1 = some 0xFF) = true := by decide

/-- Y21, Y23. -/
theorem test_data :
    answers (exec (.data 0x01) (dataAt 10 []))
      (fun t => t.st = .readingData ∧ t.remain = 9 ∧ t.wr = 3 ∧ t.buf.read 2 = some 0x01) = true ∧
      answers (exec (.data 0x55) (dataAt 1 []))
        (fun t => t.st = .readingChecksum ∧ t.remain = 0 ∧ t.wr = 3 ∧ t.buf.read 2 = some 0x55) = true := by decide

/-- Y25: the record, and IDLE with every counter 0. -/
theorem test_cksum_record :
    answers (exec (.cksum 0x29) (checksumAt [0x04, 0x01, 0x4F]))
      (fun t => t.st = .idle ∧ t.wr = 0 ∧ t.len = 0 ∧
        t.out = { record := some { time := [], number := [0x4F], name := [] }, err := .none,
                  trace := [.cksOk, .field 4 1, .recordOut] }) = true := by decide

/-- Y26, Y27. -/
theorem test_cksum_errors :
    answers (exec (.cksum 0x2A) (checksumAt [0x04, 0x01, 0x4F]))
      (fun t => t.st = .idle ∧ t.out = { record := none, err := .checksum, trace := [.cksBad 1] }) = true ∧
      answers (exec (.cksum 0xD0) (checksumAt [0x02, 0x0A, 0x35, 0x35, 0x35]))
        (fun t => t.st = .idle ∧ t.out = { record := none, err := .decode, trace := [.cksOk, .decodeErr 2 10 3] }) = true := by
  decide

/-! ### Single fields of the decoder, from the examples of R92 to R102 -/

/-- R92's `01 08 "01021200"`, over an earlier Time. -/
theorem test_tlv_time :
    answers (exec (.tlvTime 8)
      (walkAt [0x01, 0x08, 0x30, 0x31, 0x30, 0x32, 0x31, 0x32, 0x30, 0x30] 0 { time := [0x39], number := [], name := [] }))
      (fun t => t.walk.map (fun w => (w.cur, w.rem, w.record)) =
        some (10, 0, { time := [0x30, 0x31, 0x30, 0x32, 0x31, 0x32, 0x30, 0x30], number := [], name := [] })) = true := by
  decide

/-- R103: `TLV(02, "555")` over the reason "O" of an earlier tag 0x04, and the other order. -/
theorem test_tlv_number :
    answers (exec (.tlvNumber 3)
      (walkAt [0x04, 0x01, 0x4F, 0x02, 0x03, 0x35, 0x35, 0x35] 3 { time := [], number := [0x4F], name := [] }))
      (fun t => t.walk.map (fun w => w.record.number) = some [0x35, 0x35, 0x35]) = true := by decide

theorem test_tlv_number_absent :
    answers (exec (.tlvNumberAbsent 1)
      (walkAt [0x02, 0x03, 0x35, 0x35, 0x35, 0x04, 0x01, 0x4F] 5 { time := [], number := [0x35, 0x35, 0x35], name := [] }))
      (fun t => t.walk.map (fun w => w.record.number) = some [0x4F]) = true := by decide

/-- R98's `07 04 "Jane"`. -/
theorem test_tlv_name :
    answers (exec (.tlvName 4) (walkAt [0x07, 0x04, 0x4A, 0x61, 0x6E, 0x65] 0 CallRecord.empty))
      (fun t => t.walk.map (fun w => w.record) =
        some { time := [], number := [], name := [0x4A, 0x61, 0x6E, 0x65] }) = true := by decide

/-- R99's `08 01 50`. -/
theorem test_tlv_name_absent :
    answers (exec (.tlvNameAbsent 1) (walkAt [0x08, 0x01, 0x50] 0 CallRecord.empty))
      (fun t => t.walk.map (fun w => w.record) = some { time := [], number := [], name := [0x50] }) = true := by decide

/-- The examples of R94, R96, R97, R101 and R102: the record as it was, the cursor past the field. -/
theorem test_tlv_skipped :
    answers (exec (.tlvDn 2) (walkAt [0x03, 0x02, 0x31, 0x32] 0 CallRecord.empty))
        (fun t => t.walk.map (fun w => (w.cur, w.record)) = some (4, CallRecord.empty)) = true ∧
      answers (exec (.tlvRedir 1) (walkAt [0x05, 0x01, 0x31] 0 CallRecord.empty))
        (fun t => t.walk.map (fun w => (w.cur, w.record)) = some (3, CallRecord.empty)) = true ∧
      answers (exec (.tlvQualifier 1) (walkAt [0x06, 0x01, 0x4C] 0 CallRecord.empty))
        (fun t => t.walk.map (fun w => (w.cur, w.record)) = some (3, CallRecord.empty)) = true ∧
      answers (exec (.tlvMwi 1) (walkAt [0x0B, 0x01, 0xFF] 0 CallRecord.empty))
        (fun t => t.walk.map (fun w => (w.cur, w.record)) = some (3, CallRecord.empty)) = true ∧
      answers (exec (.tlvOther 0x7F 3) (walkAt [0x7F, 0x03, 0x41, 0x42, 0x43] 0 CallRecord.empty))
        (fun t => t.walk.map (fun w => (w.cur, w.record)) = some (5, CallRecord.empty)) = true := by decide

/-- D27: the bounds check applies to a skipped tag, `03 09 31`. -/
theorem test_tlv_bounds :
    answers (exec (.tlvDn 9) (walkAt [0x03, 0x09, 0x31] 0 CallRecord.empty))
      (fun t => t.st = .idle ∧ t.walk = none ∧ t.out.err = .decode ∧ t.out.trace = [.cksOk, .decodeErr 3 9 1]) = true := by
  decide

/-- P0 from step 16: the message `80 03 04 01 4F 29`. -/
theorem test_mdmf_frame :
    answers (exec (.mdmfFrame [0x04, 0x01, 0x4F] 0x29) (syncAt 16))
      (fun t => t.st = .idle ∧ t.out.record = some { time := [], number := [0x4F], name := [] } ∧
        t.buf = cellsFrom 0 [0x80, 0x03, 0x04, 0x01, 0x4F, 0x29]) = true := by decide

/-! ### Cycles, sums and codes -/

/-- Y29, Y30. -/
theorem test_cycles_without_a_byte :
    answers (step { dataAt 10 [0x01] with input := [{ rst := true, verbose := true, inValid := true, inByte := 0x55 }] })
        (fun t => t.st = .idle ∧ t.run = 0 ∧ t.wr = 0 ∧ t.len = 0 ∧ t.remain = 0 ∧ t.out = Out.idle) = true ∧
      answers (step { dataAt 10 [0x01] with input := [{ rst := false, verbose := true, inValid := false, inByte := 0x55 }] })
        (fun t => t = dataAt 10 [0x01]) = true := by decide

/-- K9 and K11: a flipped bit is seen, two exchanged bytes are not. -/
theorem test_sum8 :
    sum8 [0x80, 0x03, 0x05, 0x01, 0x4F, 0x29] = 0x01 ∧ sum8 [0x80, 0x03, 0x01, 0x04, 0x4F, 0x29] = 0x00 := by decide

/-- S1's checksum byte. -/
theorem test_sender_checksum :
    senderChecksum [0x01, 0x08, 0x30, 0x31, 0x30, 0x32, 0x31, 0x32, 0x30, 0x30] = 0xE7 := by decide

/-- R11, R24, R112: the codes. -/
theorem test_codes :
    stCode .readingChecksum = 4 ∧ errCode .checksum = 1 ∧ errCode .decode = 2 ∧ traceCode .syncAcq = 1 ∧
      traceCode (.decodeErr 0 0 0) = 8 ∧ traceCode .recordOut = 9 := by decide

/-! ### Witnesses: a state and operands that meet each statement's hypotheses -/

theorem rest_idle : (idleAt 15).Rest := rest_of rfl (by decide)
theorem rest_sync : (syncAt 16).Rest := rest_of rfl (by decide)
theorem rest_sync_spent : (syncAt 1).Rest := rest_of rfl (by decide)
theorem rest_length : lengthState.Rest := rest_of rfl (by decide)
theorem rest_data : (dataAt 3 [0x04]).Rest := rest_of rfl (by decide)
theorem rest_data_last : (dataAt 3 [0x04, 0x01]).Rest := rest_of rfl (by decide)
theorem rest_checksum : (checksumAt [0x04, 0x01, 0x4F]).Rest := rest_of rfl (by decide)
theorem inv_walk : (walkAt [0x07, 0x01, 0x4F] 0 CallRecord.empty).Inv :=
  inv_of (w := { cur := 0, rem := 3, tag := 0x00, n := 0x00, record := CallRecord.empty }) rfl (by decide)
theorem inv_walk_end : (walkAt [0x07, 0x01, 0x4F] 3 CallRecord.empty).Inv :=
  inv_of (w := { cur := 3, rem := 0, tag := 0x00, n := 0x00, record := CallRecord.empty }) rfl (by decide)

theorem inv_walk_padding : (walkAt [0x07, 0x01, 0x4F, 0x09, 0x00] 3 CallRecord.empty).Inv :=
  inv_of (w := { cur := 3, rem := 2, tag := 0x00, n := 0x00, record := CallRecord.empty }) rfl (by decide)

theorem witness_SyncTypeStoresTypeByte : (syncAt 16).Rest ∧ (syncAt 16).st = .sync := ⟨rest_sync, rfl⟩

theorem witness_SyncOtherSpendsBudget :
    (1 ≤ (syncAt 1).hold ∧ (syncAt 1).hold = 1) ∧ (1 ≤ (syncAt 16).hold ∧ (syncAt 16).hold ≠ 1) := by decide

/-- The least and the greatest Length. -/
theorem witness_LenOkCapturesLength :
    lengthState.Rest ∧ lengthState.st = .readingLength ∧
      (1 ≤ (0x01 : Byte).toNat ∧ (0x01 : Byte).toNat ≤ lengthState.cfg.maxLen) ∧
      (1 ≤ (0xFF : Byte).toNat ∧ (0xFF : Byte).toNat ≤ lengthState.cfg.maxLen) :=
  ⟨rest_length, rfl, by decide, by decide⟩

theorem witness_DataStoresAndCounts :
    ((dataAt 3 [0x04]).Rest ∧ (dataAt 3 [0x04]).st = .readingData ∧ (dataAt 3 [0x04]).remain ≠ 1) ∧
      ((dataAt 3 [0x04, 0x01]).Rest ∧ (dataAt 3 [0x04, 0x01]).st = .readingData ∧
        (dataAt 3 [0x04, 0x01]).remain = 1) :=
  ⟨⟨rest_data, rfl, by decide⟩, ⟨rest_data_last, rfl, by decide⟩⟩

theorem witness_CksumComputesDecode :
    (checksumAt [0x04, 0x01, 0x4F]).Rest ∧ (checksumAt [0x04, 0x01, 0x4F]).st = .readingChecksum :=
  ⟨rest_checksum, rfl⟩

theorem witness_StoreOutsideBufferFaults : ∃ s : State, s.cfg.bufSize ≤ s.wr :=
  ⟨{ base with wr := 258 }, by decide⟩

theorem witness_UnwrittenCellFaults :
    ∃ (s : State) (a : Nat), s.wr = s.len + 2 ∧ s.len ≤ s.cfg.maxLen ∧ s.buf.wf ∧ a < s.wr ∧ s.buf.read a = none :=
  ⟨{ base with wr := 2 }, 0, by decide⟩

/-- The field that fills the payload, and the empty one. -/
theorem witness_FieldsStored :
    ∃ w, (walkAt [0x07, 0x01, 0x4F] 0 CallRecord.empty).Inv ∧
      (walkAt [0x07, 0x01, 0x4F] 0 CallRecord.empty).walk = some w ∧ 2 < w.rem ∧
      (0x01 : Byte).toNat + 2 ≤ w.rem ∧ (0x00 : Byte).toNat + 2 ≤ w.rem :=
  ⟨_, inv_walk, rfl, by decide⟩

theorem witness_BoundsViolationAborts :
    ∃ w, (walkAt [0x07, 0x01, 0x4F] 0 CallRecord.empty).Inv ∧
      (walkAt [0x07, 0x01, 0x4F] 0 CallRecord.empty).walk = some w ∧ 2 < w.rem ∧ w.rem - 2 < (0x02 : Byte).toNat :=
  ⟨_, inv_walk, rfl, by decide⟩

theorem witness_FieldOutsideWalkFaults : base.walk = none := rfl

theorem witness_FrameFromSyncIsDecoded :
    (syncAt 16).Rest ∧ (syncAt 16).st = .sync ∧ 1 ≤ [(0xFF : Byte)].length ∧
      [(0xFF : Byte)].length ≤ (syncAt 16).cfg.maxLen := ⟨rest_sync, rfl, by decide, by decide⟩

theorem witness_FrameIsItsSteps : (syncAt 16).walk = none := rfl

/-- The preambles of 16 and 31 bytes; a last field with a value and no padding, and one without a value, with padding. -/
theorem witness_WellFormedMessageYieldsRecord :
    base.Rest ∧ base.st = .idle ∧ base.run = 0 ∧ (16 ≤ 16 ∧ 16 ≤ 31) ∧ (16 ≤ 31 ∧ 31 ≤ 31) ∧
      (∃ (fs : List (Byte × List Byte)) (pad : List Byte), pad.length ≤ 2 ∧
        (pad ≠ [] ∨ ∀ f ∈ fs.getLast?, f.2 ≠ []) ∧ 1 ≤ (fs.flatMap (fun f => tlv f.1 f.2) ++ pad).length ∧
        (fs.flatMap (fun f => tlv f.1 f.2) ++ pad).length ≤ base.cfg.maxLen ∧ pad = []) ∧
      (∃ (fs : List (Byte × List Byte)) (pad : List Byte), pad.length ≤ 2 ∧
        (pad ≠ [] ∨ ∀ f ∈ fs.getLast?, f.2 ≠ []) ∧ 1 ≤ (fs.flatMap (fun f => tlv f.1 f.2) ++ pad).length ∧
        (fs.flatMap (fun f => tlv f.1 f.2) ++ pad).length ≤ base.cfg.maxLen ∧ ∃ f ∈ fs.getLast?, f.2 = []) :=
  ⟨rest_of rfl (by decide), rfl, rfl, by decide, by decide, ⟨[(0x04, [0x4F])], [], by decide⟩,
    ⟨[(0x04, [])], [0x00], by decide, by decide, by decide, by decide, (0x04, []), rfl, rfl⟩⟩

theorem witness_SingleBitFlipDetected :
    ([0x80, 0x03, 0x04, 0x01, 0x4F, 0x29] : List Byte)[2]? = some 0x04 ∧ 7 < 8 ∧
      sum8 [0x80, 0x03, 0x04, 0x01, 0x4F, 0x29] = 0x00 := by decide

theorem witness_TraceIsBounded :
    ∃ t, (checksumAt [0x04, 0x01, 0x4F]).Rest ∧ (checksumAt [0x04, 0x01, 0x4F]).st = .readingChecksum ∧
      exec (.cksum 0x29) (checksumAt [0x04, 0x01, 0x4F]) = .next t := by
  obtain ⟨t, ht, -⟩ := of_answers (o := exec (.cksum 0x29) (checksumAt [0x04, 0x01, 0x4F])) (p := fun _ => true) (by decide)
  exact ⟨t, rest_checksum, rfl, ht⟩

theorem witness_RecordFieldsFit :
    ∃ t r, (walkAt [0x07, 0x01, 0x4F] 3 CallRecord.empty).Inv ∧
      step (walkAt [0x07, 0x01, 0x4F] 3 CallRecord.empty) = .next t ∧ t.out.record = some r := by
  obtain ⟨t, ht, hr⟩ := of_answers (o := step (walkAt [0x07, 0x01, 0x4F] 3 CallRecord.empty))
    (p := fun t => t.out.record.isSome) (by decide)
  obtain ⟨r, hr⟩ := Option.isSome_iff_exists.mp hr
  exact ⟨t, r, inv_walk_end, ht, hr⟩

/-- A step that puts out a record, and one that puts out an error. -/
theorem witness_OneOutcomePerStep :
    (∃ t, (presenting 0x29 (checksumAt [0x04, 0x01, 0x4F])).Rest ∧
      step (presenting 0x29 (checksumAt [0x04, 0x01, 0x4F])) = .next t ∧ t.out.record.isSome = true) ∧
    (∃ t, (presenting 0x2A (checksumAt [0x04, 0x01, 0x4F])).Rest ∧
      step (presenting 0x2A (checksumAt [0x04, 0x01, 0x4F])) = .next t ∧ (decide (t.out.err ≠ .none)) = true) := by
  obtain ⟨t, ht, hr⟩ := of_answers (o := step (presenting 0x29 (checksumAt [0x04, 0x01, 0x4F])))
    (p := fun t => t.out.record.isSome) (by decide)
  obtain ⟨u, hu, he⟩ := of_answers (o := step (presenting 0x2A (checksumAt [0x04, 0x01, 0x4F])))
    (p := fun t => decide (t.out.err ≠ .none)) (by decide)
  exact ⟨⟨t, rest_of rfl (by decide), ht, hr⟩, ⟨u, rest_of rfl (by decide), hu, he⟩⟩

theorem witness_RstCycleResets :
    ∃ (s : State) (c : Cycle) (rest : List Cycle), s.walk = none ∧ s.input = c :: rest ∧ c.rst = true :=
  ⟨{ dataAt 3 [0x04] with input := [{ byteCycle true 0x55 with rst := true }] }, _, _, rfl, rfl, rfl⟩

/-- A cycle without a byte, and no cycle. -/
theorem witness_NoByteHoldsState :
    (∃ (s : State) (c : Cycle) (rest : List Cycle),
      s.walk = none ∧ s.input = c :: rest ∧ c.rst = false ∧ c.inValid = false) ∧
    ∃ s : State, s.walk = none ∧ s.input = [] :=
  ⟨⟨{ dataAt 3 [0x04] with input := [{ byteCycle true 0x55 with inValid := false }] }, _, _, rfl, rfl, rfl, rfl⟩,
    ⟨dataAt 3 [0x04], rfl, rfl⟩⟩

theorem witness_StepRunsPresentedByte :
    ∃ c rest, (presenting 0x55 (idleAt 15)).walk = none ∧ (presenting 0x55 (idleAt 15)).input = c :: rest ∧
      c.rst = false ∧ c.inValid = true ∧
      decode (presenting 0x55 (idleAt 15)).cfg (.sync (presenting 0x55 (idleAt 15)).st) [c.inByte] =
        .ok (.idlePre, []) := ⟨_, _, rfl, rfl, rfl, rfl, rfl⟩

theorem witness_StepRunsFieldAtCursor :
    ∃ w, (walkAt [0x07, 0x01, 0x4F] 0 CallRecord.empty).Inv ∧
      (walkAt [0x07, 0x01, 0x4F] 0 CallRecord.empty).walk = some w ∧ 2 < w.rem ∧
      decode .default .field ((walkAt [0x07, 0x01, 0x4F] 0 CallRecord.empty).cells (2 + w.cur) w.rem) =
        .ok (.tlvName 0x01, [0x4F]) := ⟨_, inv_walk, rfl, by decide, by decide⟩

/-- No byte left, and 2. -/
theorem witness_WalkEndPutsOutRecord :
    (∃ (s : State) (w : Walk), s.Inv ∧ s.walk = some w ∧ w.rem ≤ 2 ∧ w.rem = 0) ∧
      ∃ (s : State) (w : Walk), s.Inv ∧ s.walk = some w ∧ w.rem ≤ 2 ∧ w.rem = 2 :=
  ⟨⟨_, _, inv_walk_end, rfl, by decide⟩, ⟨_, _, inv_walk_padding, rfl, by decide⟩⟩

/-- One of each context; a field is followed by a byte. -/
theorem witness_DecodeOfEncode :
    Config.default.Wf ∧ (Instr.lenOk 0xFF).wf .default = true ∧ (Instr.tlvOther 0x09 0x00).wf .default = true ∧
      (Instr.tlvOther 0x09 0x00).context = .field ∧ [(0x09 : Byte)] ≠ [] ∧
      (Instr.mdmfFrame [0xFF] 0x80).wf .default = true := by decide

theorem witness_DecodedIsEncoded :
    decode .default (.sync .readingLength) [0xFF, 0x01] = .ok (.lenOk 0xFF, [0x01]) ∧
      decode .default .field [0x07, 0x01, 0x4F] = .ok (.tlvName 0x01, [0x4F]) ∧
      decode .default .message [0x80, 0x01, 0xFF, 0x80] = .ok (.mdmfFrame [0xFF] 0x80, []) := by decide

/-- The two bytes that move `st` out of IDLE and out of SYNC. -/
theorem witness_TransitionsOfSt :
    ((presenting 0x55 (idleAt 15)).Rest ∧ nextSt (presenting 0x55 (idleAt 15)) 0x55 = .sync) ∧
      ((presenting 0x00 (syncAt 1)).Rest ∧ nextSt (presenting 0x00 (syncAt 1)) 0x00 = .idle) :=
  ⟨⟨rest_of rfl (by decide), by decide⟩, ⟨rest_of rfl (by decide), by decide⟩⟩

theorem witness_LockedStateIsLeft :
    (syncAt 16).Rest ∧ (syncAt 16).st ≠ .idle ∧
      (List.replicate 273 (0x55 : Byte)).length = 16 + 1 + (syncAt 16).cfg.maxLen + 1 :=
  ⟨rest_sync, by decide, List.length_replicate⟩

theorem witness_MessageRunsToItsEnd :
    (dataAt 3 [0x04, 0x01]).Rest ∧ (dataAt 3 [0x04, 0x01]).st = .readingData ∧
      [(0x4F : Byte), 0x29].length = (dataAt 3 [0x04, 0x01]).remain + 1 := ⟨rest_data_last, rfl, by decide⟩

/-- Marker bytes 15 and 16 after a cleared run, and 1 after a run of 15. -/
theorem witness_LockCondition :
    ((idleAt 0).Rest ∧ ¬ 16 ≤ ((idleAt 0).run + 15) % 32 ∧ 16 ≤ ((idleAt 0).run + 16) % 32 ∧
      ¬ 16 ≤ ((idleAt 0).run + 32) % 32) ∧ ((idleAt 15).Rest ∧ 16 ≤ ((idleAt 15).run + 1) % 32) :=
  ⟨⟨rest_of rfl (by decide), by decide⟩, ⟨rest_idle, by decide⟩⟩

/-- The last byte that may still arrive, and the one that spends the budget. -/
theorem witness_HoldWindow :
    (syncAt 1).Rest ∧ (syncAt 1).st = .sync ∧ (∀ b ∈ ([] : List Byte), b ≠ 0x80) ∧ ([] : List Byte).length < (syncAt 1).hold ∧
      (∀ b ∈ [(0xFF : Byte)], b ≠ 0x80) ∧ [(0xFF : Byte)].length = (syncAt 1).hold :=
  ⟨rest_sync_spent, rfl, by decide, by decide, by decide, by decide⟩

/-- Two states in IDLE, one with the cells of an earlier message. -/
theorem witness_StaleCellsInvisible :
    base.Inv ∧ ({ base with buf := cellsFrom 0 [0x80, 0x01, 0xFF, 0x80] } : State).Inv ∧
      SameButStale base { base with buf := cellsFrom 0 [0x80, 0x01, 0xFF, 0x80] } :=
  ⟨(rest_of rfl (by decide)).2, (rest_of rfl (by decide)).2, rfl, fun a ha => absurd ha (Nat.not_lt_zero a)⟩

theorem witness_ReturnToIdleIsReset :
    ∃ t, (presenting 0x29 (checksumAt [0x04, 0x01, 0x4F])).Rest ∧
      step (presenting 0x29 (checksumAt [0x04, 0x01, 0x4F])) = .next t ∧
      (presenting 0x29 (checksumAt [0x04, 0x01, 0x4F])).st ≠ .idle ∧ t.st = .idle := by
  obtain ⟨t, ht, hs⟩ := of_answers (o := step (presenting 0x29 (checksumAt [0x04, 0x01, 0x4F])))
    (p := fun t => decide (t.st = .idle)) (by decide)
  exact ⟨t, rest_of rfl (by decide), ht, by decide, of_decide_eq_true hs⟩

theorem witness_VerboseOnlyTraces :
    ∃ c rest, (presenting 0x55 (idleAt 15)).walk = none ∧ (presenting 0x55 (idleAt 15)).input = c :: rest :=
  ⟨_, _, rfl, rfl⟩

/-- A gap and then a byte. -/
theorem witness_GapsDoNotMatter :
    (idleAt 15).Rest ∧ ∀ c ∈ [{ byteCycle true 0x00 with inValid := false }, byteCycle true 0x55],
      c.rst = false ∧ c.verbose = (idleAt 15).verbose := ⟨rest_idle, by decide⟩

theorem witness_LengthStaysFixed :
    ∃ t, (presenting 0x01 (dataAt 3 [0x04])).Rest ∧ step (presenting 0x01 (dataAt 3 [0x04])) = .next t ∧
      (presenting 0x01 (dataAt 3 [0x04])).st = .readingData ∧
      ∀ c ∈ (presenting 0x01 (dataAt 3 [0x04])).input.head?, c.rst = false := by
  obtain ⟨t, ht, -⟩ := of_answers (o := step (presenting 0x01 (dataAt 3 [0x04]))) (p := fun _ => true) (by decide)
  exact ⟨t, rest_of rfl (by decide), ht, rfl, by decide⟩

theorem witness_StepKeepsInv : ∃ s t : State, s.Inv ∧ step s = .next t := by
  obtain ⟨t, _, hi, ht, -⟩ := witness_RecordFieldsFit
  exact ⟨_, t, hi, ht⟩

theorem witness_StepIsTotal : (walkAt [0x07, 0x01, 0x4F] 0 CallRecord.empty).Inv := inv_walk

theorem witness_StepEndsItsWalk : ∃ s t : State, s.walk = none ∧ step s = .next t := by
  obtain ⟨⟨t, hr, ht, -⟩, -⟩ := witness_OneOutcomePerStep
  exact ⟨_, t, hr.1, ht⟩

theorem witness_IdleStatesIndistinguishable :
    ∃ s t : State, s.Rest ∧ t.Rest ∧ s.st = .idle ∧ t.st = .idle ∧ s.run = 0 ∧ t.run = 0 ∧ s.cfg = t.cfg ∧
      s.verbose = t.verbose ∧ s.buf ≠ t.buf :=
  ⟨base, { base with buf := cellsFrom 0 [0x80, 0x01, 0xFF, 0x80] }, rest_of rfl (by decide), rest_of rfl (by decide),
    rfl, rfl, rfl, rfl, rfl, rfl, by decide⟩

theorem witness_StepStoresOnlyAtCursor :
    ∃ s t : State, s.Rest ∧ step s = .next t ∧ (∀ c ∈ s.input.head?, c.rst = false) ∧ 2 ≠ s.wr := by
  obtain ⟨t, hr, ht, -, hc⟩ := witness_LengthStaysFixed
  exact ⟨_, t, hr, ht, hc, by decide⟩

end Sys2Proof.Tests
end

section
/-! Taking the observer's part away (10_state.md R20) commutes with every operation of the machine: an untraced state
puts no item out, and nothing else reads `verbose` or the trace. `VerboseOnlyTraces` follows, since the two sampled
states of a cycle differ only in what `State.untraced` takes away. -/

namespace Sys2Proof.Machine

open Sys2Proof

/-! The fields `untraced` keeps, and the updates it commutes with. -/

@[simp] theorem State.untraced_cfg (s : State) : s.untraced.cfg = s.cfg := rfl
@[simp] theorem State.untraced_st (s : State) : s.untraced.st = s.st := rfl
@[simp] theorem State.untraced_run (s : State) : s.untraced.run = s.run := rfl
@[simp] theorem State.untraced_hold (s : State) : s.untraced.hold = s.hold := rfl
@[simp] theorem State.untraced_remain (s : State) : s.untraced.remain = s.remain := rfl
@[simp] theorem State.untraced_len (s : State) : s.untraced.len = s.len := rfl
@[simp] theorem State.untraced_walk (s : State) : s.untraced.walk = s.walk := rfl

@[simp] theorem State.clearOut_untraced (s : State) : s.untraced.clearOut = s.clearOut.untraced := rfl

@[simp] theorem State.raise_untraced (c : Condition) (s : State) : s.untraced.raise c = (s.raise c).untraced := rfl

@[simp] theorem finishDecode_untraced (s : State) : finishDecode s.untraced = (finishDecode s).untraced := by
  simp only [finishDecode, State.untraced_walk]
  cases s.walk <;> rfl

@[simp] theorem State.storeByte_untraced (b : Byte) (s : State) :
    s.untraced.storeByte b = (s.storeByte b).map State.untraced := by
  by_cases h : s.wr < s.cfg.bufSize
  · rw [State.storeByte_ok h, State.storeByte_ok (s := s.untraced) h]
    rfl
  · rw [State.storeByte_error (Nat.not_lt.mp h), State.storeByte_error (s := s.untraced) (Nat.not_lt.mp h)]
    rfl

/-! Reads give the same bytes. -/

@[simp] theorem State.readCells_untraced (s : State) (a k : Nat) : s.untraced.readCells a k = s.readCells a k := by
  induction k generalizing a with
  | zero => rfl
  | succ k ih =>
    have hcell : s.untraced.readCell a = s.readCell a := rfl
    simp only [State.readCells, hcell, ih]

@[simp] theorem State.payloadBytes_untraced (s : State) (i k : Nat) :
    s.untraced.payloadBytes i k = s.payloadBytes i k := by
  induction k generalizing i with
  | zero => rfl
  | succ k ih =>
    have hbyte : s.untraced.payloadByte i = s.payloadByte i := rfl
    simp only [State.payloadBytes, hbyte, ih]

@[simp] theorem State.headerBytes_untraced (s : State) (w : Walk) : s.untraced.headerBytes w = s.headerBytes w := rfl

/-! How `mapNext` passes a branch and a sequence. -/

theorem mapNext_ite (f : State → State) (p : Prop) [Decidable p] (o o' : Host.Outcome State Fault Refusal) :
    mapNext f (if p then o else o') = if p then mapNext f o else mapNext f o' := apply_ite _ _ _ _

/-- Sequencing with a continuation that commutes with `untraced`. -/
theorem andThen_mapNext_untraced {f : State → Host.Outcome State Fault Refusal}
    (hf : ∀ s : State, f s.untraced = mapNext State.untraced (f s)) (o : Host.Outcome State Fault Refusal) :
    andThen (mapNext State.untraced o) f = mapNext State.untraced (andThen o f) := by
  cases o with
  | next s => exact hf s
  | fault r => rfl
  | refused r => rfl

/-! The decoder's walk. -/

theorem fieldTurn_untraced (act : List Byte → CallRecord → CallRecord) (tag n : Byte) (s : State) :
    fieldTurn act tag n s.untraced = mapNext State.untraced (fieldTurn act tag n s) := by
  cases hw : s.walk with
  | none => rw [fieldTurn_none act tag n s hw, fieldTurn_none act tag n s.untraced hw, mapNext_fault]
  | some w =>
    simp only [fieldTurn, State.untraced_walk, hw, State.payloadBytes_untraced, State.raise_untraced, mapNext_ite]
    cases s.payloadBytes (w.takeHeader tag n).cur (lenOperand (w.takeHeader tag n).n) <;> rfl

theorem runWalk_untraced (k : Nat) (s : State) :
    runWalk k s.untraced = mapNext State.untraced (runWalk k s) := by
  induction k generalizing s with
  | zero => simp only [runWalk, finishDecode_untraced, mapNext_next]
  | succ k ih =>
    simp only [runWalk, State.untraced_walk, State.headerBytes_untraced, execTag_eq, fieldTurn_untraced,
      finishDecode_untraced, andThen_mapNext_untraced ih]
    cases s.walk with
    | none => rfl
    | some w =>
      simp only [mapNext_ite]
      cases s.headerBytes w <;> rfl

/-! A byte's step, class by class. -/

theorem execIdlePre_untraced (s : State) : execIdlePre s.untraced = mapNext State.untraced (execIdlePre s) := by
  simp only [execIdlePre, State.untraced_run, mapNext_ite]
  rfl

theorem execSyncType_untraced (s : State) : execSyncType s.untraced = mapNext State.untraced (execSyncType s) := by
  simp only [execSyncType, State.clearOut_untraced, State.storeByte_untraced]
  cases s.clearOut.storeByte typeMdmf <;> rfl

theorem execSyncOther_untraced (b : Byte) (s : State) :
    execSyncOther b s.untraced = mapNext State.untraced (execSyncOther b s) := by
  simp only [execSyncOther, State.untraced_hold, mapNext_ite]
  rfl

theorem execLenOk_untraced (b : Byte) (s : State) :
    execLenOk b s.untraced = mapNext State.untraced (execLenOk b s) := by
  simp only [execLenOk, State.clearOut_untraced, State.storeByte_untraced]
  cases s.clearOut.storeByte b <;> rfl

theorem execData_untraced (b : Byte) (s : State) : execData b s.untraced = mapNext State.untraced (execData b s) := by
  simp only [execData, State.clearOut_untraced, State.storeByte_untraced, State.untraced_remain]
  cases s.clearOut.storeByte b with
  | error f => rfl
  | ok s1 =>
    simp only [mapNext_ite]
    rfl

theorem execCksum_untraced (b : Byte) (s : State) :
    execCksum b s.untraced = mapNext State.untraced (execCksum b s) := by
  simp only [execCksum, State.clearOut_untraced, State.storeByte_untraced]
  cases s.clearOut.storeByte b with
  | error f => rfl
  | ok s1 =>
    simp only [Except.map, State.readCells_untraced, State.untraced_len, State.raise_untraced]
    cases s1.readCells 0 (s1.len + 3) with
    | error f => rfl
    | ok bs =>
      simp only [mapNext_ite, ← runWalk_untraced]
      rfl

theorem acceptByte_untraced (b : Byte) (s : State) :
    acceptByte b s.untraced = mapNext State.untraced (acceptByte b s) := by
  simp only [acceptByte, State.untraced_st, State.untraced_cfg]
  cases s.st with
  | idle =>
    simp only [mapNext_ite, execIdlePre_untraced]
    rfl
  | sync => simp only [mapNext_ite, execSyncType_untraced, execSyncOther_untraced]
  | readingLength =>
    simp only [mapNext_ite, execLenZero, execLenOver, State.clearOut_untraced, State.raise_untraced,
      execLenOk_untraced, mapNext_next]
  | readingData => exact execData_untraced b s
  | readingChecksum => exact execCksum_untraced b s

/-! The step of one cycle. -/

/-- What a step does with the cycle it sampled: `rst` first (70_reset_and_hazards.md R130), then the byte, if there is
one (10_state.md R23). -/
def State.runCycle (c : Cycle) (s : State) : Host.Outcome State Fault Refusal :=
  if c.rst then .next s.resetCycle else if c.inValid then acceptByte c.inByte s else .next s.holdCycle

/-- A step from a state without a walk samples the next cycle and runs it. -/
theorem step_eq_runCycle {s : State} {c : Cycle} {rest : List Cycle} (hw : s.walk = none)
    (hi : s.input = c :: rest) : step s = (s.sample c rest).runCycle c := by
  simp only [step, fetch, hw, hi, fetchCycle, State.runCycle]
  cases c.rst with
  | true => rfl
  | false =>
    cases c.inValid with
    | true => exact exec_decodeByte c.inByte (s.sample c rest)
    | false => rfl

theorem State.runCycle_untraced (c : Cycle) (s : State) :
    s.untraced.runCycle c = mapNext State.untraced (s.runCycle c) := by
  simp only [State.runCycle, acceptByte_untraced, mapNext_ite]
  rfl

/-- Settles O49: the two cycles' sampled states are the same untraced, and running a cycle commutes with `untraced`. -/
theorem verboseOnlyTraces : Obligations.VerboseOnlyTraces := by
  intro s c rest v hw hi
  have hsample : (s.sample c rest).untraced = (s.sample { c with verbose := v } rest).untraced := rfl
  rw [step_eq_runCycle hw hi, step_eq_runCycle (s := { s with input := { c with verbose := v } :: rest }) hw rfl,
    ← State.runCycle_untraced, ← State.runCycle_untraced, hsample]
  rfl

end Sys2Proof.Machine
end

section
/-! PROOFS. The sender's checksum byte (30_encoding.md R49) is the complement modulo 256 of the sum of the message's
other bytes, so the sum of the whole message is 0. -/

namespace Sys2Proof.Machine

open Sys2Proof

/-- The exact sum of a payload's message before its checksum byte, with the payload's own length as the Length (R49). -/
def senderSum (p : List Byte) : Nat := typeMdmf.toNat + p.length + (p.map fun b => b.toNat).sum

theorem senderChecksum_toNat (p : List Byte) : (senderChecksum p).toNat = (256 - senderSum p % 256) % 256 :=
  BitVec.toNat_ofNat _ 8

/-- The Length byte is the payload's length modulo 256, which the sum modulo 256 does not tell from the length. -/
theorem byteSum_frameCk (p : List Byte) (ck : Byte) :
    byteSum (frameCk p ck) = (senderSum p + ck.toNat) % 256 := by
  simp only [byteSum, frameCk, raw, senderSum, List.map_cons, List.map_append, List.map_nil, List.sum_cons,
    List.sum_append, List.sum_nil, BitVec.toNat_ofNat]
  omega

/-- Settles O21: the checksum byte adds to the other bytes' sum what is missing to a multiple of 256. -/
theorem senderChecksumSumsToZero : Obligations.SenderChecksumSumsToZero := by
  intro p
  rw [frame, byteSum_frameCk, senderChecksum_toNat]
  omega

end Sys2Proof.Machine
end

section
/-! PROOFS. The synchronizer's byte classes that store a byte (40_synchronizer.md R63, R67, R68) all go through the store
primitive. Between steps the invariant keeps its cursor inside the buffer (20_memory.md R32), so the store answers a
state, and what is left of each rule is R25's row for the state it starts in. The classes that store nothing are R62's
and R65's. -/

namespace Sys2Proof.Machine

open Sys2Proof

/-! What the invariant gives between steps. -/

theorem State.Rest.buf_wf {s : State} (h : s.Rest) : s.buf.wf := by
  obtain ⟨-, -, hbuf, -⟩ := h
  exact hbuf

/-- Between steps the invariant's table is R25's. -/
theorem State.Rest.restRow {s : State} (h : s.Rest) : s.RestRow := by
  obtain ⟨hwalk, -, -, -, hrow⟩ := h
  rw [hwalk] at hrow
  exact hrow

theorem State.Rest.syncRow {s : State} (h : s.Rest) (hst : s.st = .sync) : s.SyncRow := by
  obtain ⟨-, hsync, -⟩ := h.restRow
  exact hsync hst

theorem State.Rest.lengthRow {s : State} (h : s.Rest) (hst : s.st = .readingLength) : s.LengthRow := by
  obtain ⟨-, -, hlength, -⟩ := h.restRow
  exact hlength hst

theorem State.Rest.dataRow {s : State} (h : s.Rest) (hst : s.st = .readingData) : s.DataRow := by
  obtain ⟨-, -, -, hdata, -⟩ := h.restRow
  exact hdata hst

/-- Between steps the write cursor lies inside the buffer: each row of R25 bounds it by `len + 2`, and `len` by
`MAX_LEN`. -/
theorem State.Rest.wr_lt_bufSize {s : State} (h : s.Rest) : s.wr < s.cfg.bufSize := by
  obtain ⟨hidle, hsync, hlength, hdata, hchecksum⟩ := h.restRow
  show s.wr < s.cfg.maxLen + 3
  cases hst : s.st with
  | idle =>
    obtain ⟨-, -, -, hwr, -⟩ := hidle hst
    omega
  | sync =>
    obtain ⟨-, -, -, -, hwr, -⟩ := hsync hst
    omega
  | readingLength =>
    obtain ⟨-, -, -, hwr, -⟩ := hlength hst
    omega
  | readingData =>
    obtain ⟨-, -, -, -, hwr, -, hlen, -⟩ := hdata hst
    omega
  | readingChecksum =>
    obtain ⟨-, -, -, hwr, -, hlen, -⟩ := hchecksum hst
    omega

/-! The store that begins a step. -/

theorem storedAt_write {m : Memory} (h : m.wf) (a : Nat) (b : Byte) : StoredAt m (m.write a b) a b :=
  Memory.read_write h a b

/-- Between steps, a step that begins with the store primitive gets a state: the byte at the cursor, the cursor one
further, the output idle. -/
theorem State.Rest.clearOut_storeByte {s : State} (h : s.Rest) (b : Byte) :
    ∃ m, s.clearOut.storeByte b = .ok { s with buf := m, wr := s.wr + 1, out := Out.idle } ∧
      StoredAt s.buf m s.wr b :=
  ⟨s.buf.write s.wr b, State.storeByte_ok (s := s.clearOut) h.wr_lt_bufSize b, storedAt_write h.buf_wf s.wr b⟩

/-- Settles O3: R25's row SYNC puts the cursor at 0, where the type byte goes. -/
theorem syncTypeStoresTypeByte : Obligations.SyncTypeStoresTypeByte := by
  intro s hrest hst
  obtain ⟨-, -, -, -, hwr, -⟩ := hrest.syncRow hst
  obtain ⟨m, hstore, hm⟩ := hrest.clearOut_storeByte typeMdmf
  rw [hwr] at hstore hm
  refine ⟨m, ?_, hm⟩
  simp only [exec, execSyncType, hstore, State.emit, Out.emit_idle]

/-- Settles O7: R25's row READING_LENGTH puts the cursor at 1, where the Length goes. -/
theorem lenOkCapturesLength : Obligations.LenOkCapturesLength := by
  intro s b hrest hst _ _
  obtain ⟨-, -, -, hwr, -⟩ := hrest.lengthRow hst
  obtain ⟨m, hstore, hm⟩ := hrest.clearOut_storeByte b
  rw [hwr] at hstore hm
  refine ⟨m, ?_, hm⟩
  simp only [exec, execLenOk, hstore, lengthOperand]

/-- Settles O8: R25's row READING_DATA has `remain` at least 1, so the byte is the last one just where `remain` is 1. -/
theorem dataStoresAndCounts : Obligations.DataStoresAndCounts := by
  intro s b hrest hst
  obtain ⟨-, -, hremain, -⟩ := hrest.dataRow hst
  obtain ⟨m, hstore, hm⟩ := hrest.clearOut_storeByte b
  refine ⟨m, ?_, hm⟩
  by_cases hlast : s.remain = 1
  · simp [exec, execData, hstore, hlast]
  · have hmore : s.remain - 1 ≠ 0 := by omega
    simp [exec, execData, hstore, hlast, hmore, hst]

/-! The classes that store nothing. -/

/-- Settles O2. -/
theorem idleOtherClearsRun : Obligations.IdleOtherClearsRun := fun _ _ => rfl

/-- A rejected Length leaves what `goto_idle` leaves and the one trace item (R65, R66). -/
theorem clearOut_raise_lengthRejected (b : Byte) (s : State) :
    s.clearOut.raise (.lengthRejected b) = s.idleWith (traceOut s.verbose [.lenReject b]) := by
  rw [State.raise_eq, ← Out.emit_idle]
  rfl

/-- Settles O5: the Length rejected is 0. -/
theorem lenZeroAbandons : Obligations.LenZeroAbandons := by
  intro s
  simp only [exec, execLenZero, clearOut_raise_lengthRejected]

end Sys2Proof.Machine
end

section
/-! PROOFS. One field of the decoder's walk (42_mdmf_decoder.md R85). Every tag's meaning is one `fieldTurn` that differs
from the others in its action on the record alone, so what a turn answers is proved once, for every action: under the
invariant a field that passes the bounds check is passed over, its value being the bytes after its header, and a field
that fails it ends the decode (R91). -/

namespace Sys2Proof.Machine

open Sys2Proof

/-- While a payload is walked the invariant's table is the walk's row. -/
theorem State.Inv.walkRow {s : State} {w : Walk} (hinv : s.Inv) (hw : s.walk = some w) : s.WalkRow w := by
  obtain ⟨-, -, -, hrow⟩ := hinv
  rw [hw] at hrow
  exact hrow

/-- The value of a field that the bytes after its header hold is read without a fault: it ends inside the payload, whose
cells are all written. -/
theorem State.Inv.payloadBytes_fieldValue {s : State} {w : Walk} {n : Byte} (hinv : s.Inv) (hw : s.walk = some w)
    (hn : n.toNat + 2 ≤ w.rem) : s.payloadBytes (w.cur + 2) n.toNat = .ok (s.fieldValue w n) := by
  obtain ⟨-, -, -, -, hwr, -, hlen, -, hwritten, hrem, -⟩ := hinv.walkRow hw
  have hsize : s.cfg.bufSize = s.cfg.maxLen + 3 := rfl
  exact State.payloadBytes_ok (by omega) (by omega) fun a _ ha => hwritten a (by omega)

/-- A turn on a field that the bytes after its header hold passes over it, with the action of its tag on the record. -/
theorem State.Inv.fieldTurn_afterField {s : State} {w : Walk} {n : Byte} (hinv : s.Inv) (hw : s.walk = some w)
    (hn : n.toNat + 2 ≤ w.rem) (act : List Byte → CallRecord → CallRecord) (tag : Byte) :
    fieldTurn act tag n s = .next (s.afterField w tag n (act (s.fieldValue w n) w.record)) := by
  have hread := hinv.payloadBytes_fieldValue hw hn
  obtain ⟨hover, -⟩ | ⟨-, f, hfault, -⟩ | ⟨-, v, hv, hturn⟩ := fieldTurn_cases act tag n s w hw
  · omega
  · cases hread.symm.trans hfault
  · cases hread.symm.trans hv
    exact hturn

/-- A turn on a field whose Len is greater than the bytes left after its header raises `DecodeError`. -/
theorem fieldTurn_raise {s : State} {w : Walk} {n : Byte} (hw : s.walk = some w) (hn : w.rem - 2 < n.toNat)
    (act : List Byte → CallRecord → CallRecord) (tag : Byte) :
    fieldTurn act tag n s = .next (s.raise (.decodeError tag n (BitVec.ofNat 8 (w.rem - 2)))) := by
  obtain ⟨-, hturn⟩ | ⟨hfits, -⟩ | ⟨hfits, -⟩ := fieldTurn_cases act tag n s w hw
  · exact hturn
  · omega
  · omega

/-- Settles O12: the turn of tag 0x01 has the action `storeTime`. -/
theorem timeFieldStored : Obligations.TimeFieldStored := by
  intro s w n hinv hw _ hn
  exact hinv.fieldTurn_afterField hw hn storeTime 0x01

/-- Settles O13: the turns of tags 0x02 and 0x04 have the one action `storeNumber`. -/
theorem numberFieldsStored : Obligations.NumberFieldsStored := by
  intro s w n hinv hw _ hn
  have hturn := hinv.fieldTurn_afterField hw hn storeNumber
  exact ⟨hturn 0x02, hturn 0x04⟩

/-- Settles O14: the turns of tags 0x07 and 0x08 have the one action `storeName`. -/
theorem nameFieldsStored : Obligations.NameFieldsStored := by
  intro s w n hinv hw _ hn
  have hturn := hinv.fieldTurn_afterField hw hn storeName
  exact ⟨hturn 0x07, hturn 0x08⟩

/-- Settles O15: the turns of the other tags have the one action `skipField`. -/
theorem skippedFieldsWriteNothing : Obligations.SkippedFieldsWriteNothing := by
  intro s w tag n hinv hw _ hn
  have hturn := hinv.fieldTurn_afterField hw hn skipField
  exact ⟨hturn 0x03, hturn 0x05, hturn 0x06, hturn 0x0B, hturn tag⟩

/-- Settles O16: whatever the tag's action, the turn raises `DecodeError`, and in a walk no record has been put out
before it. -/
theorem boundsViolationAborts : Obligations.BoundsViolationAborts := by
  intro s w tag n hinv hw _ hn
  obtain ⟨-, -, -, -, -, -, -, -, -, -, hrecord, -⟩ := hinv.walkRow hw
  rw [exec_decodeTag, execTag_eq, fieldTurn_raise hw hn, State.raise_eq, Out.emit_eq, hrecord]
  rfl

end Sys2Proof.Machine
end

section
/-! PROOFS. The encoding (30_encoding.md). What the decoder picks is said once, as what the picked instruction encodes to,
where it is read, and that it is well-formed: `decodeByte` for a byte of a synchronizer state (R51), `decodeTag` for a
field's header (R52), `decodeMessage` for a whole message (R46). The round trips and the table's decoder follow. -/

namespace Sys2Proof.Machine

open Sys2Proof

/-! A byte in a synchronizer state (R51). -/

theorem encode_decodeByte (cfg : Config) (st : SyncState) (b : Byte) : encode (decodeByte cfg st b) = [b] := by
  cases st with
  | idle =>
    by_cases hb : b = preamble
    · rw [decodeByte, if_pos hb, hb, encode]
    · rw [decodeByte, if_neg hb, encode]
  | sync =>
    by_cases hb : b = typeMdmf
    · rw [decodeByte, if_pos hb, hb, encode]
    · rw [decodeByte, if_neg hb, encode]
  | readingLength =>
    by_cases hb : b = 0x00
    · rw [decodeByte, if_pos hb, hb, encode]
    · by_cases hover : cfg.maxLen < b.toNat
      · rw [decodeByte, if_neg hb, if_pos hover, encode]
      · rw [decodeByte, if_neg hb, if_neg hover, encode]
  | readingData => rfl
  | readingChecksum => rfl

theorem context_decodeByte (cfg : Config) (st : SyncState) (b : Byte) :
    (decodeByte cfg st b).context = .sync st := by
  cases st <;> simp only [decodeByte] <;> (repeat' split) <;> rfl

theorem one_le_toNat_of_ne_zero {b : Byte} (hb : b ≠ 0x00) : 1 ≤ b.toNat :=
  Nat.one_le_iff_ne_zero.mpr fun h => hb (BitVec.eq_of_toNat_eq h)

theorem wf_decodeByte (cfg : Config) (st : SyncState) (b : Byte) : (decodeByte cfg st b).wf cfg = true := by
  cases st with
  | idle => by_cases hb : b = preamble <;> simp [decodeByte, hb, Instr.wf]
  | sync => by_cases hb : b = typeMdmf <;> simp [decodeByte, hb, Instr.wf]
  | readingLength =>
    by_cases hb : b = 0x00
    · rw [decodeByte, if_pos hb, Instr.wf]
    · by_cases hover : cfg.maxLen < b.toNat
      · rw [decodeByte, if_neg hb, if_pos hover]
        exact decide_eq_true hover
      · rw [decodeByte, if_neg hb, if_neg hover]
        simp [Instr.wf, one_le_toNat_of_ne_zero hb, Nat.not_lt.mp hover]
  | readingData => rfl
  | readingChecksum => rfl

/-! A field's header (R52). -/

theorem isNamedTag_eq_true {tag : Byte} : isNamedTag tag = true →
    tag = 1#8 ∨ tag = 2#8 ∨ tag = 3#8 ∨ tag = 4#8 ∨ tag = 5#8 ∨ tag = 6#8 ∨ tag = 7#8 ∨ tag = 8#8 ∨ tag = 11#8 := by
  revert tag
  decide

theorem isNamedTag_eq_false {tag : Byte} : isNamedTag tag = false →
    tag ≠ 1#8 ∧ tag ≠ 2#8 ∧ tag ≠ 3#8 ∧ tag ≠ 4#8 ∧ tag ≠ 5#8 ∧ tag ≠ 6#8 ∧ tag ≠ 7#8 ∧ tag ≠ 8#8 ∧ tag ≠ 11#8 := by
  revert tag
  decide

/-- A property of every tag is one of each named tag and of every other. -/
theorem forall_tag {motive : Byte → Prop} (h1 : motive 0x01) (h2 : motive 0x02) (h3 : motive 0x03) (h4 : motive 0x04)
    (h5 : motive 0x05) (h6 : motive 0x06) (h7 : motive 0x07) (h8 : motive 0x08) (hB : motive 0x0B)
    (hother : ∀ tag, isNamedTag tag = false → motive tag) (tag : Byte) : motive tag := by
  cases hnamed : isNamedTag tag with
  | false => exact hother tag hnamed
  | true => obtain rfl | rfl | rfl | rfl | rfl | rfl | rfl | rfl | rfl := isNamedTag_eq_true hnamed <;> assumption

/-- A tag that no row names selects `TLV.OTHER`. -/
theorem decodeTag_of_not_named {tag : Byte} (h : isNamedTag tag = false) (n : Byte) :
    decodeTag tag n = .tlvOther tag n := by
  simp [decodeTag, isNamedTag_eq_false h]

theorem encode_decodeTag (tag n : Byte) : encode (decodeTag tag n) = [tag, n] := by
  induction tag using forall_tag with
  | hother tag hnamed => rw [decodeTag_of_not_named hnamed, encode]
  | _ => rfl

theorem context_decodeTag (tag n : Byte) : (decodeTag tag n).context = .field := by
  induction tag using forall_tag with
  | hother tag hnamed => rw [decodeTag_of_not_named hnamed, Instr.context]
  | _ => rfl

theorem wf_decodeTag (cfg : Config) (tag n : Byte) : (decodeTag tag n).wf cfg = true := by
  induction tag using forall_tag with
  | hother tag hnamed => rw [decodeTag_of_not_named hnamed, Instr.wf, hnamed, Bool.not_false]
  | _ => rfl

/-! A whole message (R46). -/

/-- The Length byte of a message is its payload's length, for `MAX_LEN` is at most 255. -/
theorem toNat_ofNat_length {cfg : Config} {p : List Byte} (hcfg : cfg.Wf) (hmax : p.length ≤ cfg.maxLen) :
    (BitVec.ofNat 8 p.length).toNat = p.length := by
  obtain ⟨-, h255⟩ := hcfg
  rw [BitVec.toNat_ofNat]
  omega

theorem decodeMessage_encode {cfg : Config} {p : List Byte} (hcfg : cfg.Wf) (h1 : 1 ≤ p.length)
    (hmax : p.length ≤ cfg.maxLen) (ck : Byte) (rest : List Byte) :
    decodeMessage cfg (encode (.mdmfFrame p ck) ++ rest) = .ok (.mdmfFrame p ck, rest) := by
  have hlen := toNat_ofNat_length hcfg hmax
  have hzero : ¬ BitVec.ofNat 8 p.length = 0x00 := fun h => by
    rw [h] at hlen
    exact absurd hlen.symm (Nat.ne_of_gt h1)
  simp only [encode, List.cons_append, List.append_assoc, List.nil_append, decodeMessage, if_true, if_neg hzero, hlen,
    if_neg (Nat.not_lt.mpr hmax), List.drop_left, List.take_left]

/-- A message that decodes is well-formed, and its bytes are those it was read from. -/
theorem decodeMessage_eq_ok {cfg : Config} {bs rest : List Byte} {i : Instr}
    (h : decodeMessage cfg bs = .ok (i, rest)) :
    i.wf cfg = true ∧ i.context = .message ∧ encode i ++ rest = bs := by
  unfold decodeMessage at h
  repeat' split at h
  all_goals cases h
  rename_i t htype _ l bs2 hzero hover _ ck hdrop
  have hlong : l.toNat < bs2.length := by
    by_contra hshort
    rw [List.drop_eq_nil_of_le (Nat.not_lt.mp hshort)] at hdrop
    cases hdrop
  have htake : (bs2.take l.toNat).length = l.toNat := List.length_take_of_le hlong.le
  refine ⟨?_, rfl, ?_⟩
  · simp [Instr.wf, htake, one_le_toNat_of_ne_zero hzero, Nat.not_lt.mp hover]
  · rw [encode, htake, BitVec.ofNat_toNat, BitVec.setWidth_eq, htype]
    simp only [List.cons_append, List.append_assoc, List.nil_append, ← hdrop, List.take_append_drop]

/-! The round trips. -/

/-- Settles O38: in each context the decoder reads back the bytes `encode` writes. The classes and tags that take more
than one byte value need the instruction's own condition to pass the rows before theirs. -/
theorem decodeOfEncode : Obligations.DecodeOfEncode := by
  intro cfg i rest hcfg hwf hrest
  cases i with
  | idlePre | syncType | lenZero | data b | cksum b => rfl
  | idleOther b =>
    have hb : b ≠ preamble := by simpa [Instr.wf] using hwf
    simp only [Instr.context, encode, List.cons_append, List.nil_append, decode, decodeByte, if_neg hb]
  | syncOther b =>
    have hb : b ≠ typeMdmf := by simpa [Instr.wf] using hwf
    simp only [Instr.context, encode, List.cons_append, List.nil_append, decode, decodeByte, if_neg hb]
  | lenOver b =>
    have hover : cfg.maxLen < b.toNat := by simpa [Instr.wf] using hwf
    have hb : b ≠ 0x00 := fun h => by simp [h] at hover
    simp only [Instr.context, encode, List.cons_append, List.nil_append, decode, decodeByte, if_neg hb, if_pos hover]
  | lenOk b =>
    obtain ⟨hpos, hmax⟩ : 1 ≤ b.toNat ∧ b.toNat ≤ cfg.maxLen := by simpa [Instr.wf] using hwf
    have hb : b ≠ 0x00 := fun h => by simp [h] at hpos
    simp only [Instr.context, encode, List.cons_append, List.nil_append, decode, decodeByte, if_neg hb,
      if_neg (Nat.not_lt.mpr hmax)]
  | tlvTime n | tlvNumber n | tlvDn n | tlvNumberAbsent n | tlvRedir n | tlvQualifier n | tlvName n | tlvNameAbsent n
  | tlvMwi n =>
    obtain ⟨v, rest, rfl⟩ := List.exists_cons_of_ne_nil (hrest rfl)
    rfl
  | tlvOther tag n =>
    have hother : isNamedTag tag = false := by simpa [Instr.wf] using hwf
    obtain ⟨v, rest, rfl⟩ := List.exists_cons_of_ne_nil (hrest rfl)
    simp only [Instr.context, encode, List.cons_append, List.nil_append, decode, decodeTag_of_not_named hother]
  | mdmfFrame p ck =>
    obtain ⟨hpos, hmax⟩ : 1 ≤ p.length ∧ p.length ≤ cfg.maxLen := by
      simpa only [Instr.wf, Bool.and_eq_true, decide_eq_true_eq] using hwf
    exact decodeMessage_encode hcfg hpos hmax ck rest

/-- Settles O39: in each context, what the decoder picks is well-formed, is of that context and encodes to its bytes. -/
theorem decodedIsEncoded : Obligations.DecodedIsEncoded := by
  intro cfg ctx bs rest i _ h
  cases ctx with
  | sync st =>
    cases bs with
    | nil => cases h
    | cons b bs =>
      cases h
      exact ⟨wf_decodeByte cfg st b, context_decodeByte cfg st b, by rw [encode_decodeByte]; rfl⟩
  | field =>
    simp only [decode] at h
    split at h
    · cases h
      exact ⟨wf_decodeTag cfg _ _, context_decodeTag _ _, by rw [encode_decodeTag]; rfl⟩
    · cases h
  | message => exact decodeMessage_eq_ok h

/-! The table's decoder (R56). -/

@[simp] theorem RowCond.holds_always (cfg : Config) (b : Byte) : RowCond.always.holds cfg b = true := rfl

@[simp] theorem RowCond.holds_aboveMaxLen (cfg : Config) (b : Byte) :
    RowCond.aboveMaxLen.holds cfg b = decide (cfg.maxLen < b.toNat) := rfl

@[simp] theorem RowCond.holds_inLengthRange (cfg : Config) (b : Byte) :
    RowCond.inLengthRange.holds cfg b = (decide (1 ≤ b.toNat) && decide (b.toNat ≤ cfg.maxLen)) := rfl

/-- A row of mask `0xFF` and no condition applies to its pattern alone. -/
@[simp] theorem Row.applies_exact (cfg : Config) (ctx c : Context) (b : Byte) (name : String) (pattern : Byte)
    (k : Nat) : Row.applies cfg ctx b ⟨name, c, pattern, 255#8, k, .always⟩ = (decide (c = ctx) && b == pattern) := by
  have hb : b &&& 255#8 = b := BitVec.and_allOnes
  simp only [Row.applies, hb, RowCond.holds_always, Bool.and_true]

/-- A row of mask `0x00` applies where its condition holds. -/
@[simp] theorem Row.applies_class (cfg : Config) (ctx c : Context) (b : Byte) (name : String) (k : Nat)
    (cond : RowCond) : Row.applies cfg ctx b ⟨name, c, 0#8, 0#8, k, cond⟩ = (decide (c = ctx) && cond.holds cfg b) := by
  have hb : b &&& 0#8 = 0#8 := BitVec.and_zero
  simp only [Row.applies, hb, beq_self_eq_true, Bool.and_true]

/-- The row a tag selects: that of the named tag, before `TLV.OTHER`'s, which applies to every tag. -/
theorem tableSelect_field (cfg : Config) (tag n : Byte) :
    tableSelect cfg .field tag = some (decodeTag tag n).mnemonic := by
  induction tag using forall_tag with
  | hother tag hnamed =>
    simp [decodeTag_of_not_named hnamed, isNamedTag_eq_false hnamed, tableSelect, opcodeTable, syncRows, tlvRows,
      firstByPriority, Instr.mnemonic]
  | _ => rfl

/-- The row a byte selects in a synchronizer state: the exact byte's before that of the whole class, and of the Length's
two classes the one whose range holds the byte. -/
theorem tableSelect_sync (cfg : Config) (st : SyncState) (b : Byte) :
    tableSelect cfg (.sync st) b = some (decodeByte cfg st b).mnemonic := by
  cases st with
  | idle =>
    by_cases hb : b = 85#8 <;>
      simp [hb, decodeByte, preamble, tableSelect, opcodeTable, syncRows, tlvRows, firstByPriority, Instr.mnemonic]
  | sync =>
    by_cases hb : b = 128#8 <;>
      simp [hb, decodeByte, typeMdmf, tableSelect, opcodeTable, syncRows, tlvRows, firstByPriority, Instr.mnemonic]
  | readingLength =>
    by_cases hb : b = 0#8
    · simp [hb, decodeByte, tableSelect, opcodeTable, syncRows, tlvRows, firstByPriority, Instr.mnemonic]
    · have hpos : 1 ≤ b.toNat := one_le_toNat_of_ne_zero hb
      obtain hover | hmax := Nat.lt_or_ge cfg.maxLen b.toNat
      · simp [hb, hpos, hover, Nat.not_le.mpr hover, decodeByte, tableSelect, opcodeTable, syncRows, tlvRows,
          firstByPriority, Instr.mnemonic]
      · simp [hb, hpos, hmax, Nat.not_lt.mpr hmax, decodeByte, tableSelect, opcodeTable, syncRows, tlvRows,
          firstByPriority, Instr.mnemonic]
  | readingData | readingChecksum =>
    simp [decodeByte, tableSelect, opcodeTable, syncRows, tlvRows, firstByPriority, Instr.mnemonic]

/-- Settles O40: for a synchronizer state and for a tag. -/
theorem tableSelectsDecoder : Obligations.TableSelectsDecoder :=
  fun cfg st b n => ⟨tableSelect_sync cfg st b, tableSelect_field cfg b n⟩

/-- Settles O37: each word is decoded by evaluation. -/
theorem sampleWordsDecode : Obligations.SampleWordsDecode := by
  unfold Obligations.SampleWordsDecode
  decide

end Sys2Proof.Machine
end

section
/-! PROOFS. The checksum (41_checksum.md): `sum8` as a sum of 8-bit words. -/

namespace Sys2Proof.Machine

open Sys2Proof

theorem sum8_eq_zero_iff (bs : List Byte) : sum8 bs = 0x00 ↔ byteSum bs = 0 := by
  rw [← BitVec.toNat_inj, sum8, BitVec.toNat_ofNat, byteSum]
  rfl

/-- Adding in 8 bits drops each carry: the accumulator is the exact sum modulo 256 (R81). -/
theorem toNat_foldl_add (bs : List Byte) (acc : Byte) :
    (bs.foldl (fun acc b => acc + b) acc).toNat = (acc.toNat + (bs.map fun b => b.toNat).sum) % 256 := by
  induction bs generalizing acc with
  | nil =>
    have := acc.isLt
    simp only [List.foldl_nil, List.map_nil, List.sum_nil]
    omega
  | cons b bs ih =>
    rw [List.foldl_cons, ih, BitVec.toNat_add, List.map_cons, List.sum_cons]
    omega

/-- Settles O22: the accumulator starts at 0. -/
theorem checksumIsModularSum : Obligations.ChecksumIsModularSum := by
  intro bs
  refine ⟨sum8_eq_zero_iff bs, ?_⟩
  rw [toNat_foldl_add, byteSum, BitVec.toNat_ofNat, Nat.zero_mod, Nat.zero_add]

theorem sum8_cons (b : Byte) (bs : List Byte) : sum8 (b :: bs) = b + sum8 bs := by
  rw [sum8, List.map_cons, List.sum_cons, BitVec.ofNat_add, BitVec.ofNat_toNat, BitVec.setWidth_eq, ← sum8]

/-- A byte replaced changes the sum by the difference. -/
theorem sum8_set_add {bs : List Byte} {i : Nat} {b : Byte} (h : bs[i]? = some b) (b' : Byte) :
    sum8 (bs.set i b') + b = sum8 bs + b' := by
  induction bs generalizing i with
  | nil => simp at h
  | cons c bs ih =>
    cases i with
    | zero =>
      cases h
      rw [List.set_cons_zero, sum8_cons, sum8_cons]
      ac_rfl
    | succ i =>
      rw [List.set_cons_succ, sum8_cons, sum8_cons, BitVec.add_assoc, ih h, BitVec.add_assoc]

/-- Settles O23: were both sums 0, the byte and the flipped byte would be equal. -/
theorem singleBitFlipDetected : Obligations.SingleBitFlipDetected := by
  intro bs i k b hb hk hsum hflip
  have hset := sum8_set_add hb (b ^^^ BitVec.twoPow 8 k)
  rw [hsum, hflip, BitVec.add_right_inj] at hset
  have hbit : b.getLsbD k = (b ^^^ BitVec.twoPow 8 k).getLsbD k := by rw [← hset]
  simp [hk] at hbit

end Sys2Proof.Machine
end

section
/-! PROOFS. Single instructions and single cycles: what `exec` answers for a class whose rule asks nothing of the state,
the two faults of an instruction that meets a state without its working values, and the step of a cycle (R60). -/

namespace Sys2Proof.Machine

open Sys2Proof

/-- Settles O1: the two branches are R61's. -/
theorem idlePreCountsOrLocks : Obligations.IdlePreCountsOrLocks := by
  intro s
  by_cases hlock : 16 ≤ s.run + 1
  · simp only [exec, execIdlePre, preThresh, holdInit, if_pos hlock, State.emit, State.clearOut, Out.emit_idle]
  · simp only [exec, execIdlePre, preThresh, hlock, if_false, State.clearOut]

/-- Settles O4: with `hold` at least 1, the byte spends the last of the budget just where `hold` is 1. -/
theorem syncOtherSpendsBudget : Obligations.SyncOtherSpendsBudget := by
  intro s b hhold
  by_cases hlast : s.hold = 1
  · have hspent : s.hold - 1 = 0 := by omega
    simp only [exec, execSyncOther, if_pos hlast, if_pos hspent, State.raise_eq, ← Out.emit_idle]
    rfl
  · have hmore : s.hold - 1 ≠ 0 := by omega
    simp only [exec, execSyncOther, if_neg hlast, if_neg hmore, State.clearOut]

/-- Settles O6: the Length rejected is the byte. -/
theorem lenOverAbandons : Obligations.LenOverAbandons := by
  intro s b
  simp only [exec, execLenOver, clearOut_raise_lengthRejected]

/-- Settles O10: each of the four begins with the store primitive. -/
theorem storeOutsideBufferFaults : Obligations.StoreOutsideBufferFaults := by
  intro s b hwr
  have hstore : ∀ c, s.clearOut.storeByte c = .error .storeOutsideBuffer := State.storeByte_error (s := s.clearOut) hwr
  simp only [exec, execSyncType, execLenOk, execData, execCksum, hstore, and_self]

/-- Settles O17: every tag's meaning is a field's turn. -/
theorem fieldOutsideWalkFaults : Obligations.FieldOutsideWalkFaults := by
  intro s tag n hw
  rw [exec_decodeTag, execTag_eq, fieldTurn_none _ _ _ _ hw]

/-- Settles O31: `State.reset` is a literal. -/
theorem resetValues : Obligations.ResetValues := by
  unfold Obligations.ResetValues
  decide

/-! The step of one cycle. -/

/-- Settles O32: reset discards the state but for `MAX_LEN` and the pins, its buffer is empty. -/
theorem rstCycleResets : Obligations.RstCycleResets := by
  intro s c rest hw hi hrst
  refine ⟨[], ?_⟩
  rw [step_eq_runCycle hw hi, State.runCycle, hrst]
  simp only [if_true, State.resetCycle, State.idleWith, State.reset, State.sample]

/-- Where no cycle is left the state is held. -/
theorem step_of_input_nil {s : State} (hw : s.walk = none) (hi : s.input = []) : step s = .next s.holdCycle := by
  simp only [step, fetch, hw, hi]

/-- Settles O33: both are a held cycle. -/
theorem noByteHoldsState : Obligations.NoByteHoldsState := by
  intro s hw
  refine ⟨fun c rest hi hrst hvalid => ?_, fun hi => step_of_input_nil hw hi⟩
  rw [step_eq_runCycle hw hi, State.runCycle, hrst, hvalid]
  rfl

/-- Settles O34: the instruction is the one `decodeByte` gives. -/
theorem stepRunsPresentedByte : Obligations.StepRunsPresentedByte := by
  intro s c rest i hw hi hrst hvalid hdecode
  cases hdecode
  rw [step_eq_runCycle hw hi, State.runCycle, hrst, hvalid]
  exact (exec_decodeByte c.inByte (s.sample c rest)).symm

end Sys2Proof.Machine
end

section
/-! PROOFS. The decoder's walk in the machine is the reference decoder's (42_mdmf_decoder.md R109): from a cursor, the loop of
R85 does what `splitFields` of the bytes from there on says, the tags' actions applied to the record one after the other.
That gives the output of the checksum byte's step (40_synchronizer.md R69). -/

namespace Sys2Proof.Machine

open Sys2Proof

/-! The reference decoder on a payload, by how it begins. -/

/-- Fewer than 3 bytes are padding (R87). -/
theorem splitFields_padding {p : List Byte} (k : Nat) (hp : p.length ≤ 2) :
    splitFields k p = { good := [], bad := none } := by
  match k, p, hp with
  | 0, _, _ => rfl
  | _ + 1, [], _ => rfl
  | _ + 1, [_], _ => rfl
  | _ + 1, [_, _], _ => rfl

/-- A field whose Len is greater than the bytes after its header ends the split (R91). -/
theorem splitFields_over {body : List Byte} {n : Byte} (k : Nat) (tag : Byte) (hbody : body ≠ [])
    (hn : body.length < n.toNat) :
    splitFields (k + 1) (tag :: n :: body) = { good := [], bad := some (tag, n, body.length) } := by
  obtain ⟨v, rest, rfl⟩ := List.exists_cons_of_ne_nil hbody
  exact if_pos hn

/-- A field that the bytes after its header hold is split off (R88 to R90). -/
theorem splitFields_field {body : List Byte} {n : Byte} (k : Nat) (tag : Byte) (hbody : body ≠ [])
    (hn : n.toNat ≤ body.length) :
    splitFields (k + 1) (tag :: n :: body) =
      { good := (tag, body.take n.toNat) :: (splitFields k (body.drop n.toNat)).good,
        bad := (splitFields k (body.drop n.toNat)).bad } := by
  obtain ⟨v, rest, rfl⟩ := List.exists_cons_of_ne_nil hbody
  exact if_neg (Nat.not_lt.mpr hn)

/-! The record the fields make. -/

/-- The actions of the fields' tags on the record, in payload order. -/
def applyFields (r : CallRecord) (fs : List (Byte × List Byte)) : CallRecord :=
  fs.foldl (fun r f => tagAction f.1 f.2 r) r

/-- A further field is the last value of its own tag. -/
theorem lastValue_concat (tags : List Byte) (fs : List (Byte × List Byte)) (f : Byte × List Byte) :
    lastValue tags (fs ++ [f]) = if tags.contains f.1 then f.2 else lastValue tags fs := by
  cases htag : tags.contains f.1 <;> simp only [lastValue, List.filter_append, List.filter_cons, htag] <;> simp

/-- A tag's action makes its field the last value of the tags that share it (R103). -/
theorem tagAction_recordOf (f : Byte × List Byte) (fs : List (Byte × List Byte)) :
    tagAction f.1 f.2 (recordOf fs) = recordOf (fs ++ [f]) := by
  obtain ⟨tag, v⟩ := f
  simp only [recordOf, lastValue_concat]
  induction tag using forall_tag with
  | hother tag hnamed => simp [tagAction, skipField, isNamedTag_eq_false hnamed]
  | _ => rfl

/-- The actions applied to a fresh record make the record in which the last writer wins. -/
theorem applyFields_empty (fs : List (Byte × List Byte)) : applyFields CallRecord.empty fs = recordOf fs := by
  induction fs using List.reverseRecOn with
  | nil => rfl
  | append_singleton fs f ih =>
    rw [← tagAction_recordOf, ← ih]
    exact List.foldl_concat _ _ _ _

/-- No text of the record is longer than `k`. -/
def CallRecord.Fits (k : Nat) (r : CallRecord) : Prop :=
  r.time.length ≤ k ∧ r.number.length ≤ k ∧ r.name.length ≤ k

theorem CallRecord.Fits.tagAction {k : Nat} {r : CallRecord} {v : List Byte} (hr : r.Fits k) (hv : v.length ≤ k)
    (tag : Byte) : (tagAction tag v r).Fits k := by
  obtain ⟨htime, hnumber, hname⟩ := hr
  unfold Machine.tagAction
  split_ifs
  · exact ⟨hv, hnumber, hname⟩
  · exact ⟨htime, hv, hname⟩
  · exact ⟨htime, hnumber, hv⟩
  · exact ⟨htime, hnumber, hname⟩

/-! The output of a walk. -/

/-- The output of the rest of a walk that has put out `items` and made the record `r` before the fields `fs`. -/
def walkOut (verbose : Bool) (items : List TraceItem) (r : CallRecord) (fs : Fields) : Out :=
  match fs.bad with
  | none =>
    { record := some (applyFields r fs.good), err := .none,
      trace := items ++ traced verbose (fieldItems fs.good ++ [.recordOut]) }
  | some (tag, n, rem) =>
    { record := none, err := .decode,
      trace := items ++ traced verbose (fieldItems fs.good ++ [.decodeErr tag n (BitVec.ofNat 8 rem)]) }

theorem traced_append (verbose : Bool) (items items' : List TraceItem) :
    traced verbose (items ++ items') = traced verbose items ++ traced verbose items' := by
  cases verbose <;> rfl

/-- A field passed is the first of the fields of the walk before it. -/
theorem walkOut_field (verbose : Bool) (items : List TraceItem) (r : CallRecord) (fs : Fields) (tag : Byte)
    (v : List Byte) :
    walkOut verbose (items ++ traced verbose [.field tag (BitVec.ofNat 8 v.length)]) (tagAction tag v r) fs =
      walkOut verbose items r { good := (tag, v) :: fs.good, bad := fs.bad } := by
  have hitems : fieldItems ((tag, v) :: fs.good) = [.field tag (BitVec.ofNat 8 v.length)] ++ fieldItems fs.good := rfl
  unfold walkOut
  simp only [hitems, List.append_assoc, traced_append]
  rfl

/-- The output of the checksum byte's step is that of a whole walk, where the sum is 0. -/
theorem messageOut_zero (verbose : Bool) (p : List Byte) :
    messageOut verbose 0x00 p = walkOut verbose (traced verbose [.cksOk]) CallRecord.empty (fieldsOf p) := by
  simp only [messageOut, if_true, walkOut, applyFields_empty]
  cases (fieldsOf p).bad <;> cases verbose <;> rfl

/-! One turn of the walk. -/

theorem State.cells_ne_nil (s : State) (a : Nat) {k : Nat} (hk : 0 < k) : s.cells a k ≠ [] :=
  List.ne_nil_of_length_pos (by rwa [State.cells_length])

/-- The bytes from the cursor on begin with the header the turn reads. -/
theorem State.Inv.headerBytes_cells {s : State} {w : Walk} (hinv : s.Inv) (hw : s.walk = some w) (hrem : 2 < w.rem) :
    ∃ tag n, s.headerBytes w = .ok (tag, n) ∧
      s.cells (2 + w.cur) w.rem = tag :: n :: s.cells (2 + (w.cur + 2)) (w.rem - 2) := by
  obtain ⟨-, -, -, -, hwr, -, hlen, -, hwritten, hcur, -⟩ := hinv.walkRow hw
  have hsize : s.cfg.bufSize = s.cfg.maxLen + 3 := rfl
  refine ⟨_, _, State.headerBytes_ok (by omega) (by omega) fun a ha => hwritten a (by omega), ?_⟩
  obtain ⟨j, hj⟩ : ∃ j, w.rem = j + 1 + 1 := ⟨w.rem - 2, by omega⟩
  rw [hj, State.cells_succ, State.cells_succ]
  rfl

/-- The value of a field that the bytes after its header hold is no longer than `FIELD_CAP`. -/
theorem State.Inv.fieldValue_length_le {s : State} {w : Walk} {n : Byte} (hinv : s.Inv) (hw : s.walk = some w)
    (hn : n.toNat + 2 ≤ w.rem) : (s.fieldValue w n).length ≤ s.cfg.fieldCap := by
  obtain ⟨-, -, -, -, -, -, hlen, -, -, hcur, -⟩ := hinv.walkRow hw
  rw [State.fieldValue, State.cells_length, Config.fieldCap]
  omega

/-- A field passed keeps the invariant. -/
theorem State.Inv.afterField {s : State} {w : Walk} {n : Byte} (hinv : s.Inv) (hw : s.walk = some w)
    (hn : n.toNat + 2 ≤ w.rem) (tag : Byte) :
    (s.afterField w tag n (tagAction tag (s.fieldValue w n) w.record)).Inv := by
  obtain ⟨hst, hrun, hhold, hremain, hwr, hlen, hmax, hheader, hwritten, hcur, hrecord, herr, hfits⟩ :=
    hinv.walkRow hw
  have hfits' := CallRecord.Fits.tagAction hfits (hinv.fieldValue_length_le hw hn) tag
  have hcur' : w.cur + 2 + n.toNat + (w.rem - 2 - n.toNat) = s.len := by omega
  obtain ⟨hcfg, hbuf, hcells, -⟩ := hinv
  exact ⟨hcfg, hbuf, hcells, hst, hrun, hhold, hremain, hwr, hlen, hmax, hheader, hwritten, hcur', hrecord, herr, hfits'⟩

/-- The turn on a field that the bytes after its header hold, whatever its tag. -/
theorem State.Inv.execTag_afterField {s : State} {w : Walk} {n : Byte} (hinv : s.Inv) (hw : s.walk = some w)
    (hn : n.toNat + 2 ≤ w.rem) (tag : Byte) :
    execTag tag n s = .next (s.afterField w tag n (tagAction tag (s.fieldValue w n) w.record)) := by
  rw [execTag_eq, hinv.fieldTurn_afterField hw hn]

/-- The end of the walk puts the record out (R100). -/
theorem State.Inv.finishDecode_eq {s : State} {w : Walk} (hinv : s.Inv) (hw : s.walk = some w) :
    finishDecode s =
      s.idleWith
        { record := some w.record, err := .none, trace := s.out.trace ++ traced s.verbose [.recordOut] } := by
  obtain ⟨-, -, -, -, -, -, -, -, -, -, -, herr, -⟩ := hinv.walkRow hw
  simp only [finishDecode, hw, State.emit, Out.emit_eq, State.setRecord, herr]
  rfl

/-! The whole walk. -/

theorem runWalk_of_walk_none (k : Nat) {s : State} (hw : s.walk = none) : runWalk k s = .next s := by
  cases k <;> simp only [runWalk, finishDecode, hw]

/-- The loop of R85 does what the split of the bytes from the cursor on says, at every number of turns. -/
theorem State.Inv.runWalk_eq (k : Nat) {s : State} {w : Walk} (hinv : s.Inv) (hw : s.walk = some w) :
    runWalk k s =
      .next (s.idleWith (walkOut s.verbose s.out.trace w.record (splitFields k (s.cells (2 + w.cur) w.rem)))) := by
  induction k generalizing s w with
  | zero => rw [runWalk, hinv.finishDecode_eq hw]; rfl
  | succ k ih =>
    rw [runWalk, hw]
    by_cases hrem : w.rem ≤ 2
    · rw [splitFields_padding (k + 1) (by rwa [State.cells_length])]
      simp only [if_pos hrem, hinv.finishDecode_eq hw]
      rfl
    · obtain ⟨tag, n, hheader, hcells⟩ := hinv.headerBytes_cells hw (Nat.not_le.mp hrem)
      have hbody : s.cells (2 + (w.cur + 2)) (w.rem - 2) ≠ [] :=
        State.cells_ne_nil _ _ (by omega)
      simp only [if_neg hrem, hheader]
      by_cases hn : n.toNat + 2 ≤ w.rem
      · have hlen : (s.fieldValue w n).length = n.toNat := State.cells_length _ _ _
        have hitem := walkOut_field s.verbose s.out.trace w.record
          (splitFields k (s.cells (2 + (w.cur + 2 + n.toNat)) (w.rem - 2 - n.toNat))) tag (s.fieldValue w n)
        rw [hlen, BitVec.ofNat_toNat, BitVec.setWidth_eq] at hitem
        rw [hinv.execTag_afterField hw hn, andThen_next, ih (hinv.afterField hw hn tag) rfl, hcells,
          splitFields_field k tag hbody (by rw [State.cells_length]; omega),
          State.cells_take _ _ _ _ (by omega), State.cells_drop _ _ _ _ (by omega), Nat.add_assoc 2]
        exact congrArg (fun o => Host.Outcome.next (s.idleWith o)) hitem
      · rw [← exec_decodeTag, boundsViolationAborts s w tag n hinv hw (by omega) (by omega), andThen_next,
          runWalk_of_walk_none k (State.idleWith_walk _ _), hcells,
          splitFields_over k tag hbody (by rw [State.cells_length]; omega), State.cells_length]
        rfl

/-! A step inside a walk. -/

theorem step_of_walk_end {s : State} {w : Walk} (hw : s.walk = some w) (hrem : w.rem ≤ 2) :
    step s = .next (finishDecode s) := by
  simp only [step, fetch, hw, fetchField, if_pos hrem]

theorem step_of_walk_field {s : State} {w : Walk} {tag n : Byte} (hw : s.walk = some w) (hrem : 2 < w.rem)
    (hheader : s.headerBytes w = .ok (tag, n)) : step s = exec (decodeTag tag n) s := by
  simp only [step, fetch, hw, fetchField, if_neg (Nat.not_le.mpr hrem), hheader]

/-- Settles O35: the header the step reads is the one the payload's bytes begin with. -/
theorem stepRunsFieldAtCursor : Obligations.StepRunsFieldAtCursor := by
  intro s w i rest hinv hw hrem hdecode
  obtain ⟨tag, n, hheader, hcells⟩ := hinv.headerBytes_cells hw hrem
  obtain ⟨v, tail, hbody⟩ := List.exists_cons_of_ne_nil (s.cells_ne_nil (2 + (w.cur + 2)) (Nat.sub_pos_of_lt hrem))
  rw [hcells, hbody] at hdecode
  cases hdecode
  exact step_of_walk_field hw hrem hheader

/-- Settles O36: the step is the end of the walk. -/
theorem walkEndPutsOutRecord : Obligations.WalkEndPutsOutRecord := by
  intro s w hinv hw hrem
  rw [step_of_walk_end hw hrem, hinv.finishDecode_eq hw]

end Sys2Proof.Machine
end

section
/-! PROOFS. The checksum byte (40_synchronizer.md R69): the byte stored, the message summed, the payload walked. -/

namespace Sys2Proof.Machine

open Sys2Proof

/-! The state the store primitive leaves (20_memory.md R32) at the beginning of a step. -/

/-- The byte at the cursor, the cursor one further, the output idle. -/
def State.stored (b : Byte) (s : State) : State :=
  { s with buf := s.buf.write s.wr b, wr := s.wr + 1, out := Out.idle }

theorem State.clearOut_storeByte_eq {s : State} (hwr : s.wr < s.cfg.bufSize) (b : Byte) :
    s.clearOut.storeByte b = .ok (s.stored b) := State.storeByte_ok (s := s.clearOut) hwr b

theorem State.read_stored {s : State} (hbuf : s.buf.wf) (b : Byte) (a : Nat) :
    (s.stored b).buf.read a = if a = s.wr then some b else s.buf.read a := Memory.read_write hbuf s.wr b a

theorem State.read_stored_of_lt {s : State} (hbuf : s.buf.wf) (b : Byte) {a : Nat} (ha : a < s.wr) :
    (s.stored b).buf.read a = s.buf.read a := by
  rw [State.read_stored hbuf, if_neg (Nat.ne_of_lt ha)]

theorem State.written_stored {s : State} (hbuf : s.buf.wf) (b : Byte) (hwritten : ∀ a, a < s.wr → s.Written a) :
    ∀ a, a < s.wr + 1 → (s.stored b).Written a := by
  intro a ha
  rw [State.Written, State.read_stored hbuf]
  split_ifs with hlast
  · rfl
  · exact hwritten a (by omega)

theorem State.cellsInside_stored {s : State} (hwr : s.wr < s.cfg.bufSize) (hcells : s.CellsInside) (b : Byte) :
    (s.stored b).CellsInside := by
  intro c hc
  obtain rfl | hc := Memory.mem_write hc
  · exact hwr
  · exact hcells c hc

/-- Cells up to the cursor, then the byte just stored. -/
theorem State.cells_stored {s : State} (hbuf : s.buf.wf) (b : Byte) :
    (s.stored b).cells 0 (s.wr + 1) = s.cells 0 s.wr ++ [b] := by
  rw [State.cells_append]
  congr 1
  · exact State.cells_congr fun i _ hi => State.read_stored_of_lt hbuf b (by omega)
  · rw [State.cells_succ, State.cells_zero, State.read_stored hbuf, if_pos (Nat.zero_add _)]
    rfl

/-! The sum and the walk. -/

theorem sum8_eq_byteSum (bs : List Byte) : sum8 bs = BitVec.ofNat 8 (byteSum bs) := by
  rw [← BitVec.toNat_inj, sum8, byteSum, BitVec.toNat_ofNat, BitVec.toNat_ofNat, Nat.mod_mod]

theorem State.Rest.checksumRow {s : State} (h : s.Rest) (hst : s.st = .readingChecksum) : s.ChecksumRow := by
  obtain ⟨-, -, -, -, hchecksum⟩ := h.restRow
  exact hchecksum hst

/-- The state in which the walk of the payload begins, the checksum byte stored and found right (R69). -/
def State.walkStart (b : Byte) (s : State) : State :=
  State.emit .cksOk { s.stored b with walk := some (Walk.start s.len) }

theorem State.Rest.walkStart_inv {s : State} (h : s.Rest) (hst : s.st = .readingChecksum) (b : Byte) :
    (s.walkStart b).Inv := by
  obtain ⟨hrun, hhold, hremain, hwr, hlen, hmax, ⟨htype, hlength⟩, hwritten⟩ := h.checksumRow hst
  have hwritten' := State.written_stored h.buf_wf b hwritten
  have hwr' : s.wr + 1 = s.len + 3 := by omega
  have htype' := State.read_stored_of_lt h.buf_wf b (a := 0) (by omega)
  have hlength' := State.read_stored_of_lt h.buf_wf b (a := 1) (by omega)
  have hwr_lt := h.wr_lt_bufSize
  obtain ⟨-, hcfg, hbuf, hinside, -⟩ := h
  exact ⟨hcfg, Memory.wf_write hbuf s.wr b, State.cellsInside_stored hwr_lt hinside b, hst, hrun, hhold, hremain, hwr',
    hlen, hmax, ⟨htype'.trans htype, hlength'.trans hlength⟩, hwritten', Nat.zero_add _, rfl, rfl, Nat.zero_le _,
    Nat.zero_le _, Nat.zero_le _⟩

/-- What the checksum byte's step leaves: the byte stored, IDLE, and the output of the sum and the payload. -/
theorem State.Rest.execCksum_eq {s : State} (h : s.Rest) (hst : s.st = .readingChecksum) (b : Byte) :
    execCksum b s =
      .next ((s.stored b).idleWith
        (messageOut s.verbose (BitVec.ofNat 8 (byteSum (s.cells 0 (s.len + 2) ++ [b]))) s.payload)) := by
  obtain ⟨-, -, -, hwr, -, hmax, -, hwritten⟩ := h.checksumRow hst
  have hsize : (s.stored b).cfg.bufSize = s.cfg.maxLen + 3 := rfl
  have hread : (s.stored b).readCells 0 ((s.stored b).len + 3) = .ok (s.cells 0 (s.len + 2) ++ [b]) := by
    show (s.stored b).readCells 0 (s.len + 3) = _
    rw [State.readCells_ok (by omega) fun a _ ha => State.written_stored h.buf_wf b hwritten a (by omega), ← hwr,
      ← State.cells_stored h.buf_wf b, hwr]
  have hpayload : (s.stored b).cells 2 s.len = s.payload :=
    State.cells_congr fun a _ ha => State.read_stored_of_lt h.buf_wf b (by omega)
  simp only [execCksum, State.clearOut_storeByte_eq h.wr_lt_bufSize, hread, sum8_eq_byteSum]
  generalize BitVec.ofNat 8 (byteSum (s.cells 0 (s.len + 2) ++ [b])) = sum
  by_cases hsum : sum = 0x00
  · have hfields : fieldsOf s.payload = splitFields s.len ((s.stored b).cells 2 s.len) := by
      rw [hpayload, fieldsOf, State.payload, State.cells_length]
    rw [if_pos hsum, hsum, messageOut_zero, hfields]
    exact (h.walkStart_inv hst b).runWalk_eq s.len rfl
  · rw [if_neg hsum, messageOut, if_neg hsum, State.raise_eq, Out.emit_eq]
    rfl

/-- Settles O9: the cursor stands at `len + 2`. -/
theorem cksumComputesDecode : Obligations.CksumComputesDecode := by
  intro s b h hst
  obtain ⟨-, -, -, hwr, -⟩ := h.checksumRow hst
  refine ⟨(s.stored b).buf, (h.execCksum_eq hst b).trans rfl, fun a => ?_⟩
  rw [State.read_stored h.buf_wf, hwr]

/-- Reading stops at a cell without a value (R35), the cells before it being inside the buffer. -/
theorem State.readCells_unwritten {s : State} {a k i : Nat} (hb : a + k ≤ s.cfg.bufSize) (hai : a ≤ i)
    (hik : i < a + k) (hi : s.buf.read i = none) : s.readCells a k = .error .unwrittenCell := by
  induction k generalizing a with
  | zero => omega
  | succ k ih =>
    have hcell : s.readCell a = .error .unwrittenCell ∨ ∃ b, s.readCell a = .ok b ∧ a ≠ i := by
      rw [State.readCell, if_pos (by omega)]
      cases hread : s.buf.read a with
      | none => exact .inl rfl
      | some b => exact .inr ⟨b, rfl, fun hai => by rw [hai, hi] at hread; cases hread⟩
    obtain hstop | ⟨b, hb', hne⟩ := hcell
    · simp only [State.readCells, hstop]
    · simp only [State.readCells, hb', ih (a := a + 1) (by omega) (by omega) (by omega)]

/-- Settles O11: the store goes to the cell at the cursor, so the cell below it still holds no value. -/
theorem unwrittenCellFaults : Obligations.UnwrittenCellFaults := by
  intro s b a hwr hmax hbuf ha hnone
  have hsize : s.cfg.bufSize = s.cfg.maxLen + 3 := rfl
  have hread : (s.stored b).buf.read a = none := (State.read_stored_of_lt hbuf b ha).trans hnone
  have hfault : (s.stored b).readCells 0 ((s.stored b).len + 3) = .error .unwrittenCell :=
    State.readCells_unwritten (show 0 + (s.len + 3) ≤ s.cfg.bufSize by omega) (Nat.zero_le a)
      (show a < 0 + (s.len + 3) by omega) hread
  simp only [exec, execCksum, State.clearOut_storeByte_eq (show s.wr < s.cfg.bufSize by omega), hfault]

end Sys2Proof.Machine
end

section
/-! PROOFS. What a step does between steps, said once (40_synchronizer.md R60). From a state of the invariant without a walk
every byte is accepted, and `State.afterByte` is the state it leads to, class by class; `State.afterStep` is the state one
cycle leads to. Both keep the invariant. -/

namespace Sys2Proof.Machine

open Sys2Proof

/-! The state a byte leads to. -/

/-- The next state of the step on `b` (R61 to R69), the store inside the buffer. -/
def State.afterByte (b : Byte) (s : State) : State :=
  match s.st with
  | .idle =>
    if b = preamble then
      if 16 ≤ s.run + 1 then { s with st := .sync, run := 0, hold := 16, out := traceOut s.verbose [.syncAcq] }
      else { s with st := .idle, run := s.run + 1, out := Out.idle }
    else { s with st := .idle, run := 0, out := Out.idle }
  | .sync =>
    if b = typeMdmf then
      { s.stored b with hold := 0, st := .readingLength, out := traceOut s.verbose [.typeByte] }
    else if s.hold = 1 then s.idleWith (traceOut s.verbose [.syncLost])
    else { s with st := .sync, hold := s.hold - 1, out := Out.idle }
  | .readingLength =>
    if b = 0x00 ∨ s.cfg.maxLen < b.toNat then s.idleWith (traceOut s.verbose [.lenReject b])
    else { s.stored b with len := b.toNat, remain := b.toNat, st := .readingData }
  | .readingData =>
    { s.stored b with
      remain := s.remain - 1, st := if s.remain = 1 then .readingChecksum else .readingData }
  | .readingChecksum =>
    (s.stored b).idleWith
      (messageOut s.verbose (BitVec.ofNat 8 (byteSum (s.cells 0 (s.len + 2) ++ [b]))) s.payload)

/-- Every byte is accepted. -/
theorem State.Rest.acceptByte_eq {s : State} (h : s.Rest) (b : Byte) : acceptByte b s = .next (s.afterByte b) := by
  have hstore := fun c => State.clearOut_storeByte_eq h.wr_lt_bufSize c
  cases hst : s.st with
  | idle =>
    have hpre := idlePreCountsOrLocks s
    have hother := idleOtherClearsRun s b
    rw [hst] at hpre hother
    by_cases hb : b = preamble
    · simpa only [exec, acceptByte, State.afterByte, hst, if_pos hb] using hpre
    · simpa only [exec, acceptByte, State.afterByte, hst, if_neg hb] using hother
  | sync =>
    obtain ⟨-, hhold, -⟩ := h.syncRow hst
    have hother := syncOtherSpendsBudget s b hhold
    rw [hst] at hother
    by_cases hb : b = typeMdmf
    · simp only [acceptByte, State.afterByte, hst, hb, execSyncType, hstore, State.emit]
      simp only [State.stored, Out.emit_idle, if_true]
    · simpa only [exec, acceptByte, State.afterByte, hst, if_neg hb] using hother
  | readingLength =>
    by_cases hzero : b = 0x00
    · simpa only [exec, acceptByte, State.afterByte, hst, hzero, if_true, true_or] using lenZeroAbandons s
    · by_cases hover : s.cfg.maxLen < b.toNat
      · simpa only [exec, acceptByte, State.afterByte, hst, hzero, hover, if_true, if_false, or_true] using
          lenOverAbandons s b
      · simp only [acceptByte, State.afterByte, hst, hzero, hover, if_false, or_self, execLenOk, hstore, lengthOperand]
  | readingData =>
    obtain ⟨-, -, hremain, -⟩ := h.dataRow hst
    simp only [acceptByte, State.afterByte, hst, execData, hstore]
    by_cases hlast : s.remain = 1
    · simp [hlast]
    · have hmore : s.remain - 1 ≠ 0 := by omega
      simp [hlast, hmore, State.stored, hst]
  | readingChecksum =>
    simp only [acceptByte, State.afterByte, hst]
    exact h.execCksum_eq hst b

/-! The invariant between steps. -/

/-- R25's row of the state's own `st`. -/
abbrev State.Row (s : State) : Prop :=
  match s.st with
  | .idle => s.IdleRow
  | .sync => s.SyncRow
  | .readingLength => s.LengthRow
  | .readingData => s.DataRow
  | .readingChecksum => s.ChecksumRow

/-- `MAX_LEN` in its range, the buffer in canonical form and inside its address space. -/
abbrev State.BufferInv (s : State) : Prop := s.cfg.Wf ∧ s.buf.wf ∧ s.CellsInside

theorem State.rest_of_row {s : State} (hw : s.walk = none) (hbuf : s.BufferInv) (hrow : s.Row) : s.Rest := by
  obtain ⟨hcfg, hwf, hcells⟩ := hbuf
  refine ⟨hw, hcfg, hwf, hcells, ?_⟩
  rw [hw]
  refine ⟨?_, ?_, ?_, ?_, ?_⟩ <;> (intro hst; simpa only [State.Row, hst] using hrow)

theorem State.Inv.bufferInv {s : State} (h : s.Inv) : s.BufferInv := by
  obtain ⟨hcfg, hbuf, hcells, -⟩ := h
  exact ⟨hcfg, hbuf, hcells⟩

theorem State.Rest.bufferInv {s : State} (h : s.Rest) : s.BufferInv := by
  obtain ⟨-, hinv⟩ := h
  exact hinv.bufferInv

theorem State.Rest.stored_bufferInv {s : State} (h : s.Rest) (b : Byte) : (s.stored b).BufferInv := by
  obtain ⟨hcfg, hbuf, hcells⟩ := h.bufferInv
  exact ⟨hcfg, Memory.wf_write hbuf s.wr b, State.cellsInside_stored h.wr_lt_bufSize hcells b⟩

theorem State.Rest.row {s : State} (h : s.Rest) : s.Row := by
  obtain ⟨hidle, hsync, hlength, hdata, hchecksum⟩ := h.restRow
  unfold State.Row
  split <;> rename_i hst
  exacts [hidle hst, hsync hst, hlength hst, hdata hst, hchecksum hst]

/-- What the pins and the outputs hold is no part of the invariant between steps. -/
theorem State.Rest.withPins {s : State} (h : s.Rest) (verbose : Bool) (input : List Cycle) (out : Out) :
    ({ s with verbose := verbose, input := input, out := out } : State).Rest := by
  obtain ⟨hw, -⟩ := id h
  exact State.rest_of_row hw h.bufferInv h.row

/-- The state `goto_idle` leaves meets the invariant. -/
theorem State.rest_idleWith {s : State} (hbuf : s.BufferInv) (o : Out) : (s.idleWith o).Rest :=
  State.rest_of_row rfl hbuf ⟨Nat.zero_le 15, rfl, rfl, rfl, rfl⟩

/-- A byte's step keeps the invariant. -/
theorem State.Rest.afterByte {s : State} (h : s.Rest) (b : Byte) : (s.afterByte b).Rest := by
  obtain ⟨hw, -⟩ := id h
  have hstored := h.stored_bufferInv b
  have hread : ∀ a, a < s.wr → (s.stored b).buf.read a = s.buf.read a :=
    fun a => State.read_stored_of_lt h.buf_wf b
  have hlast : (s.stored b).buf.read s.wr = some b := by rw [State.read_stored h.buf_wf, if_pos rfl]
  cases hst : s.st with
  | idle =>
    obtain ⟨hidle, -⟩ := h.restRow
    obtain ⟨hrun, hhold, hremain, hwr, hlen⟩ := hidle hst
    simp only [State.afterByte, hst]
    split_ifs with hb hlock
    · exact State.rest_of_row hw h.bufferInv ⟨rfl, Nat.le_add_left 1 15, Nat.le_refl 16, hremain, hwr, hlen⟩
    · have hrun' : s.run + 1 ≤ 15 := by omega
      exact State.rest_of_row hw h.bufferInv ⟨hrun', hhold, hremain, hwr, hlen⟩
    · exact State.rest_of_row hw h.bufferInv ⟨Nat.zero_le 15, hhold, hremain, hwr, hlen⟩
  | sync =>
    obtain ⟨hrun, hhold, hmax, hremain, hwr, hlen⟩ := h.syncRow hst
    simp only [State.afterByte, hst]
    split_ifs with hb hspent
    · have hwr' : s.wr + 1 = 1 := by omega
      rw [hwr, hb] at hlast
      rw [hb] at hstored ⊢
      exact State.rest_of_row hw hstored ⟨hrun, rfl, hremain, hwr', hlen, hlast⟩
    · exact State.rest_idleWith h.bufferInv _
    · have hpos : 1 ≤ s.hold - 1 := by omega
      have hmax' : s.hold - 1 ≤ 16 := by omega
      exact State.rest_of_row hw h.bufferInv ⟨hrun, hpos, hmax', hremain, hwr, hlen⟩
  | readingLength =>
    obtain ⟨hrun, hhold, hremain, hwr, hlen, htype⟩ := h.lengthRow hst
    simp only [State.afterByte, hst]
    split_ifs with hreject
    · exact State.rest_idleWith h.bufferInv _
    · obtain ⟨hzero, hover⟩ := not_or.mp hreject
      have hwr' : s.wr + 1 + b.toNat = 2 + b.toNat := by omega
      have htype' := (hread 0 (by omega)).trans htype
      have hlength : (s.stored b).buf.read 1 = some (BitVec.ofNat 8 b.toNat) := by
        rw [BitVec.ofNat_toNat, BitVec.setWidth_eq, ← hlast, hwr]
      have hwritten : ∀ a, a < s.wr → s.Written a := fun a ha => by
        obtain rfl : a = 0 := by omega
        rw [State.Written, htype]
        rfl
      exact State.rest_of_row hw hstored ⟨hrun, hhold, one_le_toNat_of_ne_zero hzero, le_rfl, hwr',
        one_le_toNat_of_ne_zero hzero, Nat.not_lt.mp hover, ⟨htype', hlength⟩,
        State.written_stored h.buf_wf b hwritten⟩
  | readingData =>
    obtain ⟨hrun, hhold, hremain, hle, hwr, hlen, hmax, ⟨htype, hlength⟩, hwritten⟩ := h.dataRow hst
    have hheader : ({ s.stored b with remain := s.remain - 1 } : State).HeaderStored :=
      ⟨(hread 0 (by omega)).trans htype, (hread 1 (by omega)).trans hlength⟩
    have hwritten' := State.written_stored h.buf_wf b hwritten
    simp only [State.afterByte, hst]
    by_cases hdone : s.remain = 1
    · have hremain' : s.remain - 1 = 0 := by omega
      have hwr' : s.wr + 1 = s.len + 2 := by omega
      rw [if_pos hdone]
      exact State.rest_of_row hw hstored ⟨hrun, hhold, hremain', hwr', hlen, hmax, hheader, hwritten'⟩
    · have hremain' : 1 ≤ s.remain - 1 := by omega
      have hle' : s.remain - 1 ≤ s.len := by omega
      have hwr' : s.wr + 1 + (s.remain - 1) = 2 + s.len := by omega
      rw [if_neg hdone]
      exact State.rest_of_row hw hstored ⟨hrun, hhold, hremain', hle', hwr', hlen, hmax, hheader, hwritten'⟩
  | readingChecksum =>
    simp only [State.afterByte, hst]
    exact State.rest_idleWith hstored _

/-! The state a step leads to. -/

/-- The next state of a step between steps: of the cycle at the head of the input, `rst` first (R130), or of no cycle. -/
def State.afterStep (s : State) : State :=
  match s.input with
  | [] => s.holdCycle
  | c :: rest =>
    if c.rst then (s.sample c rest).resetCycle
    else if c.inValid then (s.sample c rest).afterByte c.inByte
    else (s.sample c rest).holdCycle

theorem State.Rest.sample {s : State} (h : s.Rest) (c : Cycle) (rest : List Cycle) : (s.sample c rest).Rest :=
  h.withPins c.verbose rest s.out

theorem State.Rest.step_eq {s : State} (h : s.Rest) : step s = .next s.afterStep := by
  obtain ⟨hw, -⟩ := id h
  cases hi : s.input with
  | nil => simp only [State.afterStep, hi, step_of_input_nil hw hi]
  | cons c rest =>
    simp only [step_eq_runCycle hw hi, State.runCycle, State.afterStep, hi, (h.sample c rest).acceptByte_eq]
    split_ifs <;> rfl

/-- The state after reset meets the invariant, whatever the parameter and the pins. -/
theorem State.rest_resetCycle {s : State} (hcfg : s.cfg.Wf) : s.resetCycle.Rest :=
  State.rest_of_row rfl ⟨hcfg, State.reset_buf_wf, fun _ hc => absurd hc List.not_mem_nil⟩ ⟨Nat.zero_le 15, rfl, rfl, rfl, rfl⟩

/-- A step between steps keeps the invariant and opens no walk. -/
theorem State.Rest.afterStep {s : State} (h : s.Rest) : s.afterStep.Rest := by
  cases hi : s.input with
  | nil =>
    simp only [State.afterStep, hi]
    exact h.withPins s.verbose s.input Out.idle
  | cons c rest =>
    simp only [State.afterStep, hi]
    obtain ⟨hcfg, -⟩ := h.bufferInv
    split_ifs
    · exact State.rest_resetCycle hcfg
    · exact (h.sample c rest).afterByte c.inByte
    · exact h.withPins c.verbose rest Out.idle

/-- Settles O29: the state after reset is what a reset cycle leaves of it. -/
theorem resetMeetsInv : Obligations.ResetMeetsInv := State.rest_resetCycle (s := State.reset) (by decide)

/-! A step inside a walk: its end, a field passed, or a bounds violation. -/

/-- What a step inside a walk can do, by the bytes from the cursor on. -/
theorem State.Inv.step_walk_cases {s : State} {w : Walk} (hinv : s.Inv) (hw : s.walk = some w) :
    (w.rem ≤ 2 ∧ step s = .next (s.idleWith
      { record := some w.record, err := .none, trace := s.out.trace ++ traced s.verbose [.recordOut] })) ∨
    ∃ tag n body, s.cells (2 + w.cur) w.rem = tag :: n :: body ∧ 2 < w.rem ∧
      ((n.toNat + 2 ≤ w.rem ∧
        step s = .next (s.afterField w tag n (tagAction tag (s.fieldValue w n) w.record))) ∨
      (w.rem - 2 < n.toNat ∧ step s = .next (s.idleWith
        { record := none, err := .decode,
          trace := s.out.trace ++ traced s.verbose [.decodeErr tag n (BitVec.ofNat 8 (w.rem - 2))] }))) := by
  by_cases hrem : w.rem ≤ 2
  · exact .inl ⟨hrem, walkEndPutsOutRecord s w hinv hw hrem⟩
  · have hrem' : 2 < w.rem := Nat.not_le.mp hrem
    obtain ⟨tag, n, hheader, hcells⟩ := hinv.headerBytes_cells hw hrem'
    refine .inr ⟨tag, n, _, hcells, hrem', ?_⟩
    rw [step_of_walk_field hw hrem' hheader]
    by_cases hn : n.toNat + 2 ≤ w.rem
    · exact .inl ⟨hn, by rw [exec_decodeTag, hinv.execTag_afterField hw hn]⟩
    · have hover : w.rem - 2 < n.toNat := by omega
      exact .inr ⟨hover, boundsViolationAborts s w tag n hinv hw hrem' hover⟩

/-- From every state of the invariant a step answers a state of the invariant: between steps, one between steps. -/
theorem State.Inv.step_next {s : State} (hinv : s.Inv) : ∃ t, step s = .next t ∧ t.Inv := by
  cases hw : s.walk with
  | none =>
    have h : s.Rest := ⟨hw, hinv⟩
    obtain ⟨-, hinv'⟩ := h.afterStep
    exact ⟨_, h.step_eq, hinv'⟩
  | some w =>
    obtain ⟨-, hend⟩ | ⟨tag, n, -, -, -, ⟨hn, hfield⟩ | ⟨-, hover⟩⟩ := hinv.step_walk_cases hw
    · obtain ⟨-, hinv'⟩ := State.rest_idleWith hinv.bufferInv _
      exact ⟨_, hend, hinv'⟩
    · exact ⟨_, hfield, hinv.afterField hw hn tag⟩
    · obtain ⟨-, hinv'⟩ := State.rest_idleWith hinv.bufferInv _
      exact ⟨_, hover, hinv'⟩

/-- Settles O27: the state a step answers is the one of `step_next`. -/
theorem stepKeepsInv : Obligations.StepKeepsInv := by
  intro s t hinv hstep
  obtain ⟨u, hu, huinv⟩ := hinv.step_next
  cases hstep.symm.trans hu
  exact huinv

/-- Settles O30: every byte, every cycle without one and every turn of a walk has a next state. -/
theorem stepIsTotal : Obligations.StepIsTotal := by
  intro s hinv
  obtain ⟨t, ht, -⟩ := hinv.step_next
  exact ⟨t, ht⟩

end Sys2Proof.Machine
end

section
/-! PROOFS. What every step between steps keeps and puts out, from `State.afterStep`: the transitions of `st`
(40_synchronizer.md R78), the cell a step stores to (20_memory.md R32), the one outcome (60_exceptions.md R115) and the bounds
on the trace and the record (30_encoding.md R59, 42_mdmf_decoder.md R90). -/

namespace Sys2Proof.Machine

open Sys2Proof

/-! What a step can do between steps. -/

/-- A step between steps holds the state, resets it, or accepts the byte of the cycle. -/
theorem State.Rest.step_cases {s t : State} (h : s.Rest) (hstep : step s = .next t) :
    ((∀ c rest, s.input = c :: rest → c.inValid = false) ∧
      ∃ v i, t = { s with verbose := v, input := i, out := Out.idle }) ∨
    ∃ c rest, s.input = c :: rest ∧
      ((c.rst = true ∧ t = (s.sample c rest).resetCycle) ∨
      (c.rst = false ∧ c.inValid = true ∧ t = (s.sample c rest).afterByte c.inByte)) := by
  cases h.step_eq.symm.trans hstep
  cases hi : s.input with
  | nil =>
    simp only [State.afterStep, hi]
    exact .inl ⟨fun _ _ hcons => (List.cons_ne_nil _ _ hcons.symm).elim, s.verbose, s.input, rfl⟩
  | cons c rest =>
    simp only [State.afterStep, hi]
    cases hrst : c.rst with
    | true => exact .inr ⟨c, rest, rfl, .inl ⟨hrst, rfl⟩⟩
    | false =>
      cases hvalid : c.inValid with
      | true => exact .inr ⟨c, rest, rfl, .inr ⟨hrst, hvalid, rfl⟩⟩
      | false =>
        refine .inl ⟨fun c' _ hcons => ?_, c.verbose, rest, rfl⟩
        cases hcons
        exact hvalid

/-! What a byte does to `st`, to the counters and to the buffer. -/

theorem State.Rest.afterByte_st {s : State} (h : s.Rest) (b : Byte) : (s.afterByte b).st = nextSt s b := by
  cases hst : s.st with
  | idle =>
    obtain ⟨hidle, -⟩ := h.restRow
    obtain ⟨hrun, -⟩ := hidle hst
    have hlock : 16 ≤ s.run + 1 ↔ s.run = 15 := by omega
    simp only [State.afterByte, nextSt, hst, hlock, preamble, ite_and]
    split_ifs <;> rfl
  | sync =>
    simp only [State.afterByte, nextSt, hst]
    change State.st _ = if b = typeMdmf then _ else _
    split_ifs <;> rfl
  | readingLength =>
    simp only [State.afterByte, nextSt, hst]
    split_ifs <;> rfl
  | readingData | readingChecksum => simp only [State.afterByte, nextSt, hst, State.idleWith_st]

/-- A byte's step stores to the cell at the cursor or to none. -/
theorem State.afterByte_buf (s : State) (b : Byte) :
    (s.afterByte b).buf = s.buf ∨ (s.afterByte b).buf = (s.stored b).buf := by
  cases hst : s.st with
  | idle =>
    simp only [State.afterByte, hst]
    split_ifs <;> exact .inl rfl
  | sync =>
    simp only [State.afterByte, hst]
    split_ifs
    · exact .inr rfl
    · exact .inl rfl
    · exact .inl rfl
  | readingLength =>
    simp only [State.afterByte, hst]
    split_ifs
    · exact .inl rfl
    · exact .inr rfl
  | readingData | readingChecksum => exact .inr (by simp only [State.afterByte, hst, State.idleWith_buf])

/-- A byte that leads from a locked state to IDLE leaves what `goto_idle` leaves (R19). -/
theorem State.afterByte_eq_idleWith {s : State} {b : Byte} (hst : s.st ≠ .idle) (hidle : (s.afterByte b).st = .idle) :
    s.afterByte b = State.idleWith { s with buf := (s.afterByte b).buf } (s.afterByte b).out := by
  cases hs : s.st with
  | idle => exact absurd hs hst
  | sync =>
    simp only [State.afterByte, hs] at hidle ⊢
    split_ifs at hidle ⊢
    rfl
  | readingLength =>
    simp only [State.afterByte, hs] at hidle ⊢
    split_ifs at hidle ⊢
    rfl
  | readingData =>
    simp only [State.afterByte, hs] at hidle
    split_ifs at hidle
  | readingChecksum =>
    simp only [State.afterByte, hs]
    rfl

/-! What a byte puts out. -/

/-- Only the checksum byte's step puts out a record or an error. -/
theorem State.afterByte_out {s : State} (b : Byte) (hst : s.st ≠ .readingChecksum) :
    (s.afterByte b).out.record = none ∧ (s.afterByte b).out.err = .none := by
  cases hs : s.st with
  | idle | sync | readingLength =>
    simp only [State.afterByte, hs]
    split_ifs <;> exact ⟨rfl, rfl⟩
  | readingData =>
    simp only [State.afterByte, hs]
    exact ⟨rfl, rfl⟩
  | readingChecksum => exact absurd hs hst

theorem State.afterByte_readingChecksum {s : State} (b : Byte) (hst : s.st = .readingChecksum) :
    s.afterByte b = (s.stored b).idleWith
      (messageOut s.verbose (BitVec.ofNat 8 (byteSum (s.cells 0 (s.len + 2) ++ [b]))) s.payload) := by
  simp only [State.afterByte, hst]

theorem messageOut_of_ne {sum : Byte} (hsum : sum ≠ 0x00) (verbose : Bool) (p : List Byte) :
    messageOut verbose sum p = { record := none, err := .checksum, trace := traced verbose [.cksBad sum] } :=
  if_neg hsum

/-- A message ends in a record just where it ends in no error. -/
theorem messageOut_record_iff (verbose : Bool) (sum : Byte) (p : List Byte) :
    (messageOut verbose sum p).record.isSome = true ↔ (messageOut verbose sum p).err = .none := by
  by_cases hsum : sum = 0x00
  · rw [hsum, messageOut_zero]
    cases hbad : (fieldsOf p).bad <;> simp [walkOut, hbad]
  · simp [messageOut_of_ne hsum]

/-! The bounds on the fields of a payload. -/

/-- More than 2 bytes are a header and at least one byte more (R86). -/
theorem exists_header {p : List Byte} (hp : 2 < p.length) : ∃ tag n body, p = tag :: n :: body ∧ body ≠ [] := by
  match p, hp with
  | tag :: n :: v :: rest, _ => exact ⟨tag, n, v :: rest, rfl, List.cons_ne_nil _ _⟩

/-- Each field takes 2 bytes, and the last one leaves a byte after its header at least (R59). -/
theorem splitFields_length_le (k : Nat) (p : List Byte) : 2 * (splitFields k p).good.length ≤ p.length - 1 := by
  induction k generalizing p with
  | zero => exact Nat.zero_le _
  | succ k ih =>
    by_cases hp : p.length ≤ 2
    · rw [splitFields_padding _ hp]
      exact Nat.zero_le _
    · obtain ⟨tag, n, body, rfl, hbody⟩ := exists_header (Nat.not_le.mp hp)
      by_cases hn : body.length < n.toNat
      · rw [splitFields_over k tag hbody hn]
        exact Nat.zero_le _
      · have hrest := ih (body.drop n.toNat)
        have hpos := List.length_pos_iff.mpr hbody
        rw [splitFields_field k tag hbody (Nat.not_lt.mp hn)]
        simp only [List.length_cons, List.length_drop] at hrest ⊢
        omega

/-- The value of a field is at least 2 bytes shorter than the payload (R90). -/
theorem splitFields_value_le (k : Nat) (p : List Byte) :
    ∀ f ∈ (splitFields k p).good, f.2.length ≤ p.length - 2 := by
  induction k generalizing p with
  | zero => exact fun f hf => absurd hf List.not_mem_nil
  | succ k ih =>
    by_cases hp : p.length ≤ 2
    · rw [splitFields_padding _ hp]
      exact fun f hf => absurd hf List.not_mem_nil
    · obtain ⟨tag, n, body, rfl, hbody⟩ := exists_header (Nat.not_le.mp hp)
      by_cases hn : body.length < n.toNat
      · rw [splitFields_over k tag hbody hn]
        exact fun f hf => absurd hf List.not_mem_nil
      · rw [splitFields_field k tag hbody (Nat.not_lt.mp hn)]
        intro f hf
        obtain rfl | hf := List.mem_cons.mp hf
        · simp
        · have hrest := ih _ f hf
          simp only [List.length_cons, List.length_drop] at hrest ⊢
          omega

theorem applyFields_fits {k : Nat} {fs : List (Byte × List Byte)} (hfs : ∀ f ∈ fs, f.2.length ≤ k) {r : CallRecord}
    (hr : r.Fits k) : (applyFields r fs).Fits k := by
  induction fs generalizing r with
  | nil => exact hr
  | cons f fs ih =>
    exact ih (fun g hg => hfs g (List.mem_cons_of_mem f hg)) (hr.tagAction (hfs f List.mem_cons_self) f.1)

theorem CallRecord.Fits.mono {k l : Nat} {r : CallRecord} (hr : r.Fits k) (hkl : k ≤ l) : r.Fits l := by
  obtain ⟨htime, hnumber, hname⟩ := hr
  exact ⟨htime.trans hkl, hnumber.trans hkl, hname.trans hkl⟩

/-- The record of a message fits in its payload less a header. -/
theorem messageOut_record_fits {verbose : Bool} {sum : Byte} {p : List Byte} {r : CallRecord}
    (hr : (messageOut verbose sum p).record = some r) : r.Fits (p.length - 2) := by
  have hfits : (recordOf (fieldsOf p).good).Fits (p.length - 2) := by
    rw [← applyFields_empty]
    exact applyFields_fits (splitFields_value_le _ p) ⟨Nat.zero_le _, Nat.zero_le _, Nat.zero_le _⟩
  by_cases hsum : sum = 0x00
  · rw [hsum, messageOut_zero] at hr
    cases hbad : (fieldsOf p).bad with
    | none =>
      simp only [walkOut, hbad, applyFields_empty, Option.some.injEq] at hr
      rwa [← hr]
    | some bad => simp [walkOut, hbad] at hr
  · simp [messageOut_of_ne hsum] at hr

/-! The statements. -/

/-- Settles O41: the step is the byte's. -/
theorem transitionsOfSt : Obligations.TransitionsOfSt := by
  intro s c rest h hi hrst hvalid
  refine ⟨s.afterStep, h.step_eq, ?_⟩
  simp only [State.afterStep, hi, hrst, hvalid, if_true, Bool.false_eq_true, if_false, (h.sample c rest).afterByte_st]
  rfl

/-- Settles O25: the record is the walk's, which the invariant bounds, or that of a whole payload. -/
theorem recordFieldsFit : Obligations.RecordFieldsFit := by
  intro s t r hinv hstep hr
  show r.Fits (s.cfg.maxLen - 2)
  cases hw : s.walk with
  | none =>
    have h : s.Rest := ⟨hw, hinv⟩
    obtain ⟨-, v, i, rfl⟩ | ⟨c, rest, -, ⟨-, rfl⟩ | ⟨-, -, rfl⟩⟩ := h.step_cases hstep
    · cases hr
    · cases hr
    · by_cases hst : s.st = .readingChecksum
      · obtain ⟨-, -, -, -, -, hmax, -⟩ := h.checksumRow hst
        rw [State.afterByte_readingChecksum (s := s.sample c rest) c.inByte hst] at hr
        have hlen : (s.sample c rest).payload.length = s.len := State.cells_length _ _ _
        have hfits := messageOut_record_fits hr
        rw [hlen] at hfits
        exact hfits.mono (Nat.sub_le_sub_right hmax 2)
      · obtain ⟨hnone, -⟩ := State.afterByte_out (s := s.sample c rest) c.inByte hst
        cases hnone.symm.trans hr
  | some w =>
    obtain ⟨-, -, -, -, -, -, -, -, -, -, hnone, -, hfits⟩ := hinv.walkRow hw
    obtain ⟨-, hend⟩ | ⟨tag, n, -, -, -, ⟨-, hfield⟩ | ⟨-, hover⟩⟩ := hinv.step_walk_cases hw
    · cases hstep.symm.trans hend
      cases hr
      exact hfits
    · cases hstep.symm.trans hfield
      cases hnone.symm.trans hr
    · cases hstep.symm.trans hover
      cases hr

/-- Settles O26: a cycle without a byte puts out nothing. -/
theorem oneOutcomePerStep : Obligations.OneOutcomePerStep := by
  intro s t h hstep
  obtain ⟨hheld, v, i, rfl⟩ | ⟨c, rest, hi, ⟨hrst, rfl⟩ | ⟨-, -, rfl⟩⟩ := h.step_cases hstep
  · refine ⟨fun _ => rfl, by simp, fun c rest hi _ hvalid _ => ?_⟩
    rw [hheld c rest hi] at hvalid
    cases hvalid
  · refine ⟨fun _ => rfl, by simp, fun c' _ hi' hrst' _ _ => ?_⟩
    cases hi.symm.trans hi'
    cases hrst.symm.trans hrst'
  · by_cases hst : s.st = .readingChecksum
    · rw [State.afterByte_readingChecksum (s := s.sample c rest) c.inByte hst]
      have hiff := messageOut_record_iff (s.sample c rest).verbose
        (BitVec.ofNat 8 (byteSum ((s.sample c rest).cells 0 ((s.sample c rest).len + 2) ++ [c.inByte])))
        (s.sample c rest).payload
      exact ⟨hiff.mp, fun _ => hst, fun _ _ _ _ _ _ => hiff⟩
    · obtain ⟨hrecord, herr⟩ := State.afterByte_out (s := s.sample c rest) c.inByte hst
      exact ⟨fun _ => herr, by simp [hrecord, herr], fun _ _ _ _ _ hst' => absurd hst' hst⟩

/-- Where the sum is 0 the trace is `T_CKS_OK`, the fields and one item more (R113). -/
theorem messageOut_zero_trace (verbose : Bool) (p : List Byte) :
    ∃ item, item.isField = false ∧
      (messageOut verbose 0x00 p).trace = traced verbose (.cksOk :: (fieldItems (fieldsOf p).good ++ [item])) := by
  simp only [messageOut, if_true]
  cases (fieldsOf p).bad with
  | none => exact ⟨.recordOut, rfl, rfl⟩
  | some bad => exact ⟨_, rfl, rfl⟩

theorem traced_sublist (verbose : Bool) (items : List TraceItem) : (traced verbose items).Sublist items := by
  cases verbose
  · exact List.nil_sublist items
  · exact List.Sublist.refl items

/-- The trace of a message: its fields, and 2 items more at most. -/
theorem messageOut_trace_le (verbose : Bool) (sum : Byte) (p : List Byte) :
    ((messageOut verbose sum p).trace.filter TraceItem.isField).length ≤ (p.length - 1) / 2 ∧
      (messageOut verbose sum p).trace.length ≤ (p.length - 1) / 2 + 2 := by
  by_cases hsum : sum = 0x00
  · have hcount := splitFields_length_le p.length p
    have hgood : (fieldItems (fieldsOf p).good).length = (splitFields p.length p).good.length := List.length_map _
    obtain ⟨item, hitem, htrace⟩ := messageOut_zero_trace verbose p
    have hsub := traced_sublist verbose (.cksOk :: (fieldItems (fieldsOf p).good ++ [item]))
    have hfields := (hsub.filter TraceItem.isField).length_le
    have hall := hsub.length_le
    have hok : TraceItem.cksOk.isField = false := rfl
    rw [List.filter_cons_of_neg (by simp [hok]), List.filter_append, List.filter_singleton, hitem] at hfields
    have hfilter := List.length_filter_le TraceItem.isField (fieldItems (fieldsOf p).good)
    rw [hsum, htrace]
    simp only [List.length_append, List.length_cons, List.length_nil, cond_false] at hfields hall
    omega
  · rw [messageOut_of_ne hsum]
    have hsub := traced_sublist verbose [.cksBad sum]
    have hfields := (hsub.filter TraceItem.isField).length_le
    exact ⟨hfields.trans (Nat.zero_le _), hsub.length_le.trans (Nat.le_add_left 1 _)⟩

/-- Settles O24: the payload is at most 255 bytes long. -/
theorem traceIsBounded : Obligations.TraceIsBounded := by
  intro s t b h hst hstep
  obtain ⟨-, -, -, -, -, hmax, -⟩ := h.checksumRow hst
  obtain ⟨⟨-, h255⟩, -⟩ := h.bufferInv
  cases (h.execCksum_eq hst b).symm.trans hstep
  have hbound := messageOut_trace_le s.verbose (BitVec.ofNat 8 (byteSum (s.cells 0 (s.len + 2) ++ [b]))) s.payload
  have hlen : s.payload.length = s.len := State.cells_length _ _ _
  rw [hlen] at hbound
  obtain ⟨hfields, hall⟩ := hbound
  have hitems : (s.len - 1) / 2 + 2 ≤ 129 := by omega
  exact ⟨hfields, hall.trans hitems⟩

/-- Settles O48: of the steps that leave a locked state, a reset and the bytes that end a message lead to IDLE. -/
theorem returnToIdleIsReset : Obligations.ReturnToIdleIsReset := by
  intro s t h hstep hst hidle
  obtain ⟨-, v, i, rfl⟩ | ⟨c, rest, -, ⟨-, rfl⟩ | ⟨-, -, rfl⟩⟩ := h.step_cases hstep
  · exact absurd hidle hst
  · rfl
  · rw [State.afterByte_eq_idleWith (s := s.sample c rest) hst hidle]
    rfl

/-- Settles O51: the payload bytes keep `len`, the checksum byte ends the message. -/
theorem lengthStaysFixed : Obligations.LengthStaysFixed := by
  intro s t h hstep hst
  have hlocked : s.st ≠ .idle := by rintro hidle; simp [hidle] at hst
  obtain ⟨-, v, i, rfl⟩ | ⟨c, rest, -, ⟨-, rfl⟩ | ⟨-, -, rfl⟩⟩ := h.step_cases hstep
  · exact .inl ⟨rfl, hlocked⟩
  · exact .inr ⟨rfl, rfl⟩
  · obtain hst | hst := hst
    · have hst' : (s.sample c rest).st = .readingData := hst
      simp only [State.afterByte, hst']
      refine .inl ⟨rfl, ?_⟩
      split_ifs <;> exact nofun
    · rw [State.afterByte_readingChecksum (s := s.sample c rest) c.inByte hst]
      exact .inr ⟨rfl, rfl⟩

/-- Settles O52: a held cycle stores nothing, a byte at the cursor or nowhere. -/
theorem stepStoresOnlyAtCursor : Obligations.StepStoresOnlyAtCursor := by
  intro s t h hstep hrst a ha
  obtain ⟨-, v, i, rfl⟩ | ⟨c, rest, hi, ⟨hreset, -⟩ | ⟨-, -, rfl⟩⟩ := h.step_cases hstep
  · rfl
  · cases (hrst c (by rw [hi]; rfl)).symm.trans hreset
  · obtain hbuf | hbuf := State.afterByte_buf (s.sample c rest) c.inByte
    · rw [hbuf]
      rfl
    · rw [hbuf, State.read_stored (s := s.sample c rest) h.buf_wf]
      exact if_neg ha

end Sys2Proof.Machine
end

section
/-! PROOFS. The input still to come is no part of what a byte does: accepting a byte commutes with replacing the input, in
every state, and keeps the absence of a walk and the level of `verbose`. So the steps of the cycles that present a message
are the fold of its bytes (40_synchronizer.md R72), and cycles without a byte between them change nothing (20_memory.md
R36). -/

namespace Sys2Proof.Machine

open Sys2Proof

/-- The state with other cycles to come. -/
def State.withInput (i : List Cycle) (s : State) : State := { s with input := i }

@[simp] theorem State.withInput_cfg (i : List Cycle) (s : State) : (s.withInput i).cfg = s.cfg := rfl
@[simp] theorem State.withInput_st (i : List Cycle) (s : State) : (s.withInput i).st = s.st := rfl
@[simp] theorem State.withInput_run (i : List Cycle) (s : State) : (s.withInput i).run = s.run := rfl
@[simp] theorem State.withInput_hold (i : List Cycle) (s : State) : (s.withInput i).hold = s.hold := rfl
@[simp] theorem State.withInput_remain (i : List Cycle) (s : State) : (s.withInput i).remain = s.remain := rfl
@[simp] theorem State.withInput_len (i : List Cycle) (s : State) : (s.withInput i).len = s.len := rfl
@[simp] theorem State.withInput_walk (i : List Cycle) (s : State) : (s.withInput i).walk = s.walk := rfl

/-! The operations. -/

theorem State.raise_withInput (i : List Cycle) (c : Condition) (s : State) :
    (s.withInput i).raise c = (s.raise c).withInput i := rfl

theorem finishDecode_withInput (i : List Cycle) (s : State) :
    finishDecode (s.withInput i) = (finishDecode s).withInput i := by
  simp only [finishDecode, State.withInput_walk]
  cases s.walk <;> rfl

/-- A step that begins with the store primitive stores and goes on, or faults. -/
theorem State.clearOut_storeByte_cases (s : State) (b : Byte) :
    s.clearOut.storeByte b = .ok (s.stored b) ∨ s.clearOut.storeByte b = .error .storeOutsideBuffer := by
  by_cases hwr : s.wr < s.cfg.bufSize
  · exact .inl (State.clearOut_storeByte_eq hwr b)
  · exact .inr (State.storeByte_error (s := s.clearOut) (Nat.not_lt.mp hwr) b)

theorem State.clearOut_storeByte_withInput (i : List Cycle) (b : Byte) (s : State) :
    (s.withInput i).clearOut.storeByte b = (s.clearOut.storeByte b).map (State.withInput i) := by
  by_cases hwr : s.wr < s.cfg.bufSize
  · rw [State.clearOut_storeByte_eq hwr, State.clearOut_storeByte_eq (s := s.withInput i) hwr]
    rfl
  · rw [State.storeByte_error (s := s.clearOut) (Nat.not_lt.mp hwr),
      State.storeByte_error (s := (s.withInput i).clearOut) (Nat.not_lt.mp hwr)]
    rfl

theorem State.readCells_withInput (i : List Cycle) (s : State) (a k : Nat) :
    (s.withInput i).readCells a k = s.readCells a k := by
  induction k generalizing a with
  | zero => rfl
  | succ k ih =>
    have hcell : (s.withInput i).readCell a = s.readCell a := rfl
    simp only [State.readCells, hcell, ih]

theorem State.payloadBytes_withInput (i : List Cycle) (s : State) (a k : Nat) :
    (s.withInput i).payloadBytes a k = s.payloadBytes a k := by
  induction k generalizing a with
  | zero => rfl
  | succ k ih =>
    have hbyte : (s.withInput i).payloadByte a = s.payloadByte a := rfl
    simp only [State.payloadBytes, hbyte, ih]

theorem State.headerBytes_withInput (i : List Cycle) (s : State) (w : Walk) :
    (s.withInput i).headerBytes w = s.headerBytes w := rfl

/-! The walk and the bytes. -/

/-- Sequencing with a continuation that commutes with a change of the state. -/
theorem andThen_mapNext {g : State → State} {f : State → Host.Outcome State Fault Refusal}
    (hf : ∀ s, f (g s) = mapNext g (f s)) (o : Host.Outcome State Fault Refusal) :
    andThen (mapNext g o) f = mapNext g (andThen o f) := by
  cases o with
  | next s => exact hf s
  | fault r => rfl
  | refused r => rfl

theorem fieldTurn_withInput (i : List Cycle) (act : List Byte → CallRecord → CallRecord) (tag n : Byte) (s : State) :
    fieldTurn act tag n (s.withInput i) = mapNext (State.withInput i) (fieldTurn act tag n s) := by
  cases hw : s.walk with
  | none => rw [fieldTurn_none act tag n s hw, fieldTurn_none act tag n (s.withInput i) hw, mapNext_fault]
  | some w =>
    simp only [fieldTurn, State.withInput_walk, hw, State.payloadBytes_withInput, State.raise_withInput, mapNext_ite]
    cases s.payloadBytes (w.takeHeader tag n).cur (lenOperand (w.takeHeader tag n).n) <;> rfl

theorem runWalk_withInput (i : List Cycle) (k : Nat) (s : State) :
    runWalk k (s.withInput i) = mapNext (State.withInput i) (runWalk k s) := by
  induction k generalizing s with
  | zero => simp only [runWalk, finishDecode_withInput, mapNext_next]
  | succ k ih =>
    simp only [runWalk, State.withInput_walk, State.headerBytes_withInput, execTag_eq, fieldTurn_withInput,
      finishDecode_withInput, andThen_mapNext ih]
    cases s.walk with
    | none => rfl
    | some w =>
      simp only [mapNext_ite]
      cases s.headerBytes w <;> rfl

theorem execCksum_withInput (i : List Cycle) (b : Byte) (s : State) :
    execCksum b (s.withInput i) = mapNext (State.withInput i) (execCksum b s) := by
  simp only [execCksum, State.clearOut_storeByte_withInput]
  obtain hstore | hstore := s.clearOut_storeByte_cases b
  · simp only [hstore, Except.map, State.readCells_withInput, State.withInput_len, State.raise_withInput]
    cases (s.stored b).readCells 0 ((s.stored b).len + 3) with
    | error f => rfl
    | ok bs =>
      simp only [mapNext_ite, ← runWalk_withInput]
      rfl
  · rw [hstore]
    rfl

/-- What a byte does to the state does not depend on the input still to come. -/
theorem acceptByte_withInput (i : List Cycle) (b : Byte) (s : State) :
    acceptByte b (s.withInput i) = mapNext (State.withInput i) (acceptByte b s) := by
  simp only [acceptByte, State.withInput_st, State.withInput_cfg]
  cases s.st with
  | idle =>
    simp only [execIdlePre, State.withInput_run, mapNext_ite]
    rfl
  | sync =>
    simp only [execSyncType, execSyncOther, State.clearOut_storeByte_withInput, State.withInput_hold, mapNext_ite]
    obtain hstore | hstore := s.clearOut_storeByte_cases typeMdmf <;> rw [hstore] <;> rfl
  | readingLength =>
    simp only [execLenOk, State.clearOut_storeByte_withInput, mapNext_ite]
    obtain hstore | hstore := s.clearOut_storeByte_cases b <;> rw [hstore] <;> rfl
  | readingData =>
    simp only [execData, State.clearOut_storeByte_withInput, State.withInput_remain]
    obtain hstore | hstore := s.clearOut_storeByte_cases b
    · simp only [hstore, mapNext_ite]
      rfl
    · rw [hstore]
      rfl
  | readingChecksum => exact execCksum_withInput i b s

/-- A step begins with the idle output, whatever the output before it. -/
theorem acceptByte_clearOut (b : Byte) (s : State) : acceptByte b s.clearOut = acceptByte b s := rfl

/-! What every next state keeps: the absence of a walk, and the level of `verbose`. -/

theorem finishDecode_walk (s : State) : (finishDecode s).walk = none := by
  cases hw : s.walk with
  | none => simp only [finishDecode, hw]
  | some w => simp only [finishDecode, hw, State.gotoIdle_walk, State.endWalk_walk]

theorem finishDecode_verbose (s : State) : (finishDecode s).verbose = s.verbose := by
  cases hw : s.walk with
  | none => simp only [finishDecode, hw]
  | some w =>
    simp only [finishDecode, hw, State.gotoIdle_verbose, State.endWalk_verbose, State.emit_verbose,
      State.setRecord_verbose]

theorem fieldTurn_verbose {act : List Byte → CallRecord → CallRecord} {tag n : Byte} {s t : State}
    (h : fieldTurn act tag n s = .next t) : t.verbose = s.verbose := by
  cases hw : s.walk with
  | none =>
    rw [fieldTurn_none act tag n s hw] at h
    cases h
  | some w =>
    obtain ⟨-, hover⟩ | ⟨-, f, -, hfault⟩ | ⟨-, v, -, hfield⟩ := fieldTurn_cases act tag n s w hw
    · cases h.symm.trans hover
      rfl
    · cases h.symm.trans hfault
    · cases h.symm.trans hfield
      rfl

/-- The loop of R85 leaves no walk. -/
theorem runWalk_next {k : Nat} {s t : State} (h : runWalk k s = .next t) : t.walk = none ∧ t.verbose = s.verbose := by
  induction k generalizing s with
  | zero =>
    cases h
    exact ⟨finishDecode_walk s, finishDecode_verbose s⟩
  | succ k ih =>
    rw [runWalk] at h
    cases hw : s.walk with
    | none =>
      rw [hw] at h
      cases h
      exact ⟨hw, rfl⟩
    | some w =>
      simp only [hw, execTag_eq] at h
      split_ifs at h
      · cases h
        exact ⟨finishDecode_walk s, finishDecode_verbose s⟩
      · cases hheader : s.headerBytes w with
        | error f =>
          rw [hheader] at h
          cases h
        | ok header =>
          rw [hheader] at h
          obtain ⟨u, hturn, hrest⟩ := andThen_eq_next.mp h
          obtain ⟨hwalk, hverbose⟩ := ih hrest
          exact ⟨hwalk, hverbose.trans (fieldTurn_verbose hturn)⟩

theorem execCksum_next {b : Byte} {s t : State} (h : execCksum b s = .next t) :
    t.walk = none ∧ t.verbose = s.verbose := by
  obtain hstore | hstore := s.clearOut_storeByte_cases b
  · simp only [execCksum, hstore] at h
    cases hread : (s.stored b).readCells 0 ((s.stored b).len + 3) with
    | error f =>
      rw [hread] at h
      cases h
    | ok bs =>
      simp only [hread] at h
      split_ifs at h
      · obtain ⟨hwalk, hverbose⟩ := runWalk_next h
        exact ⟨hwalk, hverbose⟩
      · cases h
        exact ⟨rfl, rfl⟩
  · simp only [execCksum, hstore] at h
    cases h

theorem acceptByte_next {b : Byte} {s t : State} (hw : s.walk = none) (h : acceptByte b s = .next t) :
    t.walk = none ∧ t.verbose = s.verbose := by
  cases hst : s.st with
  | idle =>
    simp only [acceptByte, hst, execIdlePre, execIdleOther] at h
    split_ifs at h <;> cases h <;> exact ⟨hw, rfl⟩
  | sync =>
    simp only [acceptByte, hst] at h
    split_ifs at h
    · rw [execSyncType] at h
      obtain hstore | hstore := s.clearOut_storeByte_cases typeMdmf <;> rw [hstore] at h <;> cases h
      exact ⟨hw, rfl⟩
    · rw [execSyncOther] at h
      split_ifs at h <;> cases h
      · exact ⟨rfl, rfl⟩
      · exact ⟨hw, rfl⟩
  | readingLength =>
    simp only [acceptByte, hst] at h
    split_ifs at h
    · cases h
      exact ⟨rfl, rfl⟩
    · cases h
      exact ⟨rfl, rfl⟩
    · rw [execLenOk] at h
      obtain hstore | hstore := s.clearOut_storeByte_cases b <;> rw [hstore] at h <;> cases h
      exact ⟨hw, rfl⟩
  | readingData =>
    obtain hstore | hstore := s.clearOut_storeByte_cases b
    · simp only [acceptByte, hst, execData, hstore] at h
      split_ifs at h <;> cases h <;> exact ⟨hw, rfl⟩
    · simp only [acceptByte, hst, execData, hstore] at h
      cases h
  | readingChecksum =>
    simp only [acceptByte, hst] at h
    exact execCksum_next h

/-- Settles O28: a byte leaves no walk, and only a byte could open one. -/
theorem stepEndsItsWalk : Obligations.StepEndsItsWalk := by
  intro s t hw hstep
  cases hi : s.input with
  | nil =>
    cases (step_of_input_nil hw hi).symm.trans hstep
    exact hw
  | cons c rest =>
    rw [step_eq_runCycle hw hi, State.runCycle] at hstep
    split_ifs at hstep
    · cases hstep
      rfl
    · obtain ⟨hwalk, -⟩ := acceptByte_next (s := s.sample c rest) hw hstep
      exact hwalk
    · cases hstep
      exact hw

/-! The steps of the cycles that present a stream are its fold. -/

theorem run_succ (k : Nat) (s : State) :
    Host.Core.run Sys2Proof.core (k + 1) s = andThen (step s) (Host.Core.run Sys2Proof.core k) := by
  have hstep : Sys2Proof.core.step s = step s := rfl
  simp only [Host.Core.run, hstep]
  cases step s <;> rfl

theorem run_succ_of_step {s t : State} (h : step s = .next t) (k : Nat) :
    Host.Core.run Sys2Proof.core (k + 1) s = Host.Core.run Sys2Proof.core k t := by
  rw [run_succ, h]
  rfl

/-- The step of a cycle at the state's own level of `verbose`. -/
theorem step_withInput {s : State} (hw : s.walk = none) {c : Cycle} (hv : c.verbose = s.verbose) (rest : List Cycle) :
    step (s.withInput (c :: rest)) = (s.withInput rest).runCycle c := by
  have hsample : (s.withInput (c :: rest)).sample c rest = s.withInput rest := by
    simp only [State.sample, State.withInput, hv]
  rw [step_eq_runCycle (s := s.withInput (c :: rest)) hw rfl, hsample]

theorem run_byteCycles (bs : List Byte) (rest : List Cycle) {s : State} (hw : s.walk = none) :
    Host.Core.run Sys2Proof.core bs.length (s.withInput (byteCycles s.verbose bs ++ rest)) =
      mapNext (State.withInput rest) (feed bs s) := by
  induction bs generalizing s with
  | nil => rfl
  | cons b bs ih =>
    have hstep : step (s.withInput (byteCycles s.verbose (b :: bs) ++ rest)) =
        mapNext (State.withInput (byteCycles s.verbose bs ++ rest)) (acceptByte b s) :=
      (step_withInput hw rfl _).trans (acceptByte_withInput _ b s)
    rw [List.length_cons, run_succ, hstep, feed]
    cases hnext : acceptByte b s with
    | next t =>
      obtain ⟨hwalk, hverbose⟩ := acceptByte_next hw hnext
      have hrun := ih hwalk
      rw [hverbose] at hrun
      exact hrun
    | fault r => rfl
    | refused r => rfl

theorem length_frameCk (p : List Byte) (ck : Byte) : (frameCk p ck).length = p.length + 3 := by
  simp [frameCk, raw]

/-- Settles O19: a message is a stream of `len + 3` bytes. -/
theorem frameIsItsSteps : Obligations.FrameIsItsSteps := by
  intro s p ck rest hw
  rw [← length_frameCk p ck]
  exact run_byteCycles (frameCk p ck) rest hw

/-! Cycles without a byte. -/

theorem acceptedBytes_of_valid {c : Cycle} (hc : c.inValid = true) (cs : List Cycle) :
    acceptedBytes (c :: cs) = c.inByte :: acceptedBytes cs := by
  rw [acceptedBytes, List.filter_cons_of_pos hc, List.map_cons, ← acceptedBytes]

theorem acceptedBytes_of_gap {c : Cycle} (hc : c.inValid = false) (cs : List Cycle) :
    acceptedBytes (c :: cs) = acceptedBytes cs := by
  rw [acceptedBytes, List.filter_cons_of_neg (by rw [hc]; exact Bool.false_ne_true), ← acceptedBytes]

theorem acceptedBytes_ne_nil {cs : List Cycle} {c : Cycle} (hmem : c ∈ cs) (hc : c.inValid = true) :
    acceptedBytes cs ≠ [] := by
  rw [acceptedBytes, Ne, List.map_eq_nil_iff]
  exact List.ne_nil_of_mem (List.mem_filter.mpr ⟨hmem, hc⟩)

/-- The output before a stream makes no difference to where it leads, nor to the output but for the empty stream. -/
theorem feed_clearOut {bs : List Byte} {s t : State} (h : feed bs s.clearOut = .next t) :
    ∃ u, feed bs s = .next u ∧ t = { u with out := t.out } ∧ (bs ≠ [] → t.out = u.out) := by
  cases bs with
  | nil =>
    cases h
    exact ⟨s, rfl, rfl, fun hne => absurd rfl hne⟩
  | cons b bs =>
    rw [feed, acceptByte_clearOut] at h
    exact ⟨t, h, rfl, fun _ => rfl⟩

/-- The cycles lead where the accepted bytes lead, but for the output; that is equal too where no cycle comes last that
presents none. -/
theorem State.Rest.run_cycles {s : State} (h : s.Rest) {cs : List Cycle}
    (hcs : ∀ c ∈ cs, c.rst = false ∧ c.verbose = s.verbose) :
    ∃ t u, feed (acceptedBytes cs) s = .next t ∧
      Host.Core.run Sys2Proof.core cs.length (s.withInput cs) = .next u ∧
      u = { t with input := [], out := u.out } ∧ ((∀ c ∈ cs.getLast?, c.inValid = true) → u.out = t.out) := by
  induction cs generalizing s with
  | nil => exact ⟨s, s.withInput [], rfl, rfl, rfl, fun _ => rfl⟩
  | cons c cs ih =>
    obtain ⟨hw, -⟩ := id h
    obtain ⟨⟨hrst, hv⟩, hrest⟩ := List.forall_mem_cons.mp hcs
    have hstep := step_withInput hw hv cs
    have hlast : (∀ d ∈ (c :: cs).getLast?, d.inValid = true) → ∀ d ∈ cs.getLast?, d.inValid = true := by
      intro hd d hmem
      refine hd d ?_
      rw [List.getLast?_cons, Option.mem_def.mp hmem]
      rfl
    cases hvalid : c.inValid with
    | true =>
      have hbyte := h.acceptByte_eq c.inByte
      obtain ⟨-, hverbose⟩ := acceptByte_next hw hbyte
      obtain ⟨t, u, hfeed, hrun, hu, hout⟩ := ih (h.afterByte c.inByte) (by rwa [hverbose])
      refine ⟨t, u, ?_, ?_, hu, hout ∘ hlast⟩
      · rw [acceptedBytes_of_valid hvalid, feed, hbyte, andThen_next, hfeed]
      · have hnext : step (s.withInput (c :: cs)) = .next ((s.afterByte c.inByte).withInput cs) := by
          rw [hstep, State.runCycle, hrst, hvalid]
          exact (acceptByte_withInput cs c.inByte s).trans (congrArg (mapNext (State.withInput cs)) hbyte)
        exact (run_succ_of_step hnext cs.length).trans hrun
    | false =>
      obtain ⟨t', u, hfeed, hrun, hu, hout⟩ := ih (h.withPins s.verbose s.input Out.idle) hrest
      obtain ⟨t, hfeed', ht', hout'⟩ := feed_clearOut (s := s) hfeed
      refine ⟨t, u, ?_, ?_, ?_, fun hd => ?_⟩
      · rw [acceptedBytes_of_gap hvalid, hfeed']
      · have hnext : step (s.withInput (c :: cs)) = .next (s.clearOut.withInput cs) := by
          rw [hstep, State.runCycle, hrst, hvalid]
          rfl
        exact (run_succ_of_step hnext cs.length).trans hrun
      · rw [hu, ht']
      · cases cs with
        | nil =>
          cases (hd c rfl).symm.trans hvalid
        | cons d ds =>
          have hne : acceptedBytes (d :: ds) ≠ [] :=
            acceptedBytes_ne_nil (List.getLast_mem (List.cons_ne_nil d ds)) (hlast hd _ (List.getLast?_eq_some_getLast _))
          rw [hout (hlast hd), hout' hne]

/-- Settles O50: the last cycle is the only one that comes last. -/
theorem gapsDoNotMatter : Obligations.GapsDoNotMatter := by
  intro s cs h hcs
  obtain ⟨t, u, hfeed, hrun, hu, hout⟩ := h.run_cycles hcs
  refine ⟨t, u, hfeed, hrun, hu, fun c hc hvalid => hout fun d hd => ?_⟩
  cases hc.symm.trans hd
  exact hvalid

end Sys2Proof.Machine
end

section
/-! PROOFS. Stale cells (20_memory.md R35): two states that differ only in cells at or past the write cursor. A byte stores
the same byte at the same cursor of both, and what it reads lies below the cursor, so it puts out the same. -/

namespace Sys2Proof.Machine

open Sys2Proof

/-- A state that differs in stale cells only is the state with another buffer, the same below the cursor. -/
theorem SameButStale.exists_buf {s t : State} (h : SameButStale s t) :
    ∃ m, t = { s with buf := m } ∧ ∀ a, a < s.wr → m.read a = s.buf.read a := by
  obtain ⟨ht, hread⟩ := h
  exact ⟨t.buf, ht, hread⟩

theorem SameButStale.out_eq {s t : State} (h : SameButStale s t) : t.out = s.out := by
  obtain ⟨m, rfl, -⟩ := h.exists_buf
  rfl

/-- Cells below the cursor are the same bytes. -/
theorem SameButStale.cells_eq {s t : State} (h : SameButStale s t) {a k : Nat} (hk : a + k ≤ s.wr) :
    t.cells a k = s.cells a k := by
  obtain ⟨-, hread⟩ := h
  exact State.cells_congr fun i _ hi => hread i (by omega)

/-- IDLE has no cell of a current message. -/
theorem sameButStale_idleWith (s : State) (m : Memory) (o : Out) :
    SameButStale (s.idleWith o) (State.idleWith { s with buf := m } o) :=
  ⟨rfl, fun _ ha => absurd ha (Nat.not_lt_zero _)⟩

/-- The same byte stored at the same cursor. -/
theorem read_stored_eq {s : State} {m : Memory} (hs : s.buf.wf) (hm : m.wf)
    (hread : ∀ a, a < s.wr → m.read a = s.buf.read a) (b : Byte) :
    ∀ a, a < s.wr + 1 → (m.write s.wr b).read a = (s.buf.write s.wr b).read a := by
  intro a ha
  rw [Memory.read_write hs, Memory.read_write hm]
  split_ifs with hlast
  · rfl
  · exact hread a (by omega)

/-- The checksum byte's step reads the message, which lies below the cursor. -/
theorem SameButStale.afterByte_readingChecksum {s t : State} (h : SameButStale s t) (hs : s.Rest)
    (hst : s.st = .readingChecksum) (b : Byte) : SameButStale (s.afterByte b) (t.afterByte b) := by
  obtain ⟨-, -, -, hwr, -⟩ := hs.checksumRow hst
  have hall := h.cells_eq (a := 0) (k := s.len + 2) (by omega)
  have hpayload := h.cells_eq (a := 2) (k := s.len) (by omega)
  obtain ⟨m, rfl, -⟩ := h.exists_buf
  have hpayload' : State.payload { s with buf := m } = s.payload := hpayload
  rw [State.afterByte_readingChecksum b hst, State.afterByte_readingChecksum (s := { s with buf := m }) b hst, hall,
    hpayload']
  exact sameButStale_idleWith _ _ _

/-- The step on a byte keeps stale cells stale and does not read them. -/
theorem SameButStale.afterByte {s t : State} (h : SameButStale s t) (hs : s.Rest) (ht : t.Rest) (b : Byte) :
    SameButStale (s.afterByte b) (t.afterByte b) := by
  have htbuf := ht.buf_wf
  obtain ⟨m, rfl, hread⟩ := h.exists_buf
  have hstored := read_stored_eq hs.buf_wf htbuf hread b
  cases hst : s.st with
  | idle =>
    simp only [State.afterByte, hst]
    split_ifs <;> exact ⟨rfl, hread⟩
  | sync =>
    simp only [State.afterByte, hst]
    split_ifs
    · exact ⟨rfl, hstored⟩
    · exact sameButStale_idleWith s m _
    · exact ⟨rfl, hread⟩
  | readingLength =>
    simp only [State.afterByte, hst]
    split_ifs
    · exact sameButStale_idleWith s m _
    · exact ⟨rfl, hstored⟩
  | readingData =>
    simp only [State.afterByte, hst]
    exact ⟨rfl, hstored⟩
  | readingChecksum =>
    rw [← hst]
    exact h.afterByte_readingChecksum hs hst b

/-- A step between steps keeps stale cells stale. -/
theorem SameButStale.afterStep {s t : State} (h : SameButStale s t) (hs : s.Rest) (ht : t.Rest) :
    SameButStale s.afterStep t.afterStep := by
  obtain ⟨m, rfl, hread⟩ := h.exists_buf
  cases hi : s.input with
  | nil =>
    simp only [State.afterStep, hi]
    exact ⟨by simp only [State.holdCycle, State.clearOut, hi], hread⟩
  | cons c rest =>
    have hsample : SameButStale (s.sample c rest) (State.sample c rest { s with buf := m }) := ⟨rfl, hread⟩
    simp only [State.afterStep, hi]
    split_ifs
    · exact ⟨rfl, fun _ ha => absurd ha (Nat.not_lt_zero _)⟩
    · exact hsample.afterByte (hs.sample c rest) (ht.sample c rest) c.inByte
    · exact ⟨rfl, hread⟩

/-- Settles O46: inside a walk the field at the cursor lies below the write cursor. -/
theorem staleCellsInvisible : Obligations.StaleCellsInvisible := by
  intro s t hs ht h
  obtain ⟨m, hm, hread⟩ := id h.exists_buf
  cases hw : s.walk with
  | none =>
    have hws : s.Rest := ⟨hw, hs⟩
    have hwt : t.Rest := ⟨by rw [hm]; exact hw, ht⟩
    exact ⟨_, _, hws.step_eq, hwt.step_eq, h.afterStep hws hwt⟩
  | some w =>
    have hwt : t.walk = some w := by rw [hm]; exact hw
    obtain ⟨-, -, -, -, hwr, -, -, -, -, hcur, -⟩ := hs.walkRow hw
    by_cases hrem : w.rem ≤ 2
    · refine ⟨_, _, walkEndPutsOutRecord s w hs hw hrem, walkEndPutsOutRecord t w ht hwt hrem, ?_⟩
      rw [hm]
      exact sameButStale_idleWith s m _
    · have hrem' : 2 < w.rem := Nat.not_le.mp hrem
      obtain ⟨tag, n, hheader, hcells⟩ := hs.headerBytes_cells hw hrem'
      obtain ⟨tag', n', hheader', hcells'⟩ := ht.headerBytes_cells hwt hrem'
      rw [h.cells_eq (by omega), hcells] at hcells'
      obtain ⟨rfl, rfl, -⟩ : tag = tag' ∧ n = n' ∧ _ := by simpa using hcells'
      rw [step_of_walk_field hw hrem' hheader, step_of_walk_field hwt hrem' hheader']
      by_cases hn : n.toNat + 2 ≤ w.rem
      · have hvalue : t.fieldValue w n = s.fieldValue w n := h.cells_eq (by omega)
        rw [exec_decodeTag, exec_decodeTag, hs.execTag_afterField hw hn, ht.execTag_afterField hwt hn, hvalue]
        refine ⟨_, _, rfl, rfl, ?_⟩
        rw [hm]
        exact ⟨rfl, hread⟩
      · have hover : w.rem - 2 < n.toNat := by omega
        refine ⟨_, _, boundsViolationAborts s w tag n hs hw hrem' hover,
          boundsViolationAborts t w tag n ht hwt hrem' hover, ?_⟩
        rw [hm]
        exact sameButStale_idleWith s m _

/-! The outputs over a stream (70_reset_and_hazards.md R132). -/

theorem outputs_withInput (i : List Cycle) (bs : List Byte) (s : State) :
    outputs bs (s.withInput i) = outputs bs s := by
  induction bs generalizing s with
  | nil => rfl
  | cons b bs ih =>
    simp only [outputs, acceptByte_withInput]
    cases acceptByte b s with
    | next t => exact congrArg (t.out :: ·) (ih t)
    | fault r => rfl
    | refused r => rfl

theorem outputs_clearOut (bs : List Byte) (s : State) : outputs bs s.clearOut = outputs bs s := by
  cases bs with
  | nil => rfl
  | cons b bs => rw [outputs, outputs, acceptByte_clearOut]

/-- States that differ in stale cells only put out the same on every stream. -/
theorem SameButStale.outputs_eq {s t : State} (h : SameButStale s t) (hs : s.Rest) (ht : t.Rest) (bs : List Byte) :
    outputs bs t = outputs bs s := by
  induction bs generalizing s t with
  | nil => rfl
  | cons b bs ih =>
    have hnext := h.afterByte hs ht b
    simp only [outputs, hs.acceptByte_eq, ht.acceptByte_eq, hnext.out_eq, ih hnext (hs.afterByte b) (ht.afterByte b)]

/-- Settles O47: but for the output and the input, which no output depends on, the two states differ in stale cells only. -/
theorem idleStatesIndistinguishable : Obligations.IdleStatesIndistinguishable := by
  intro s t bs hs ht hsst htst hsrun htrun hcfg hverbose
  obtain ⟨hsidle, -⟩ := hs.restRow
  obtain ⟨htidle, -⟩ := ht.restRow
  obtain ⟨-, hshold, hsremain, hswr, hslen⟩ := hsidle hsst
  obtain ⟨-, hthold, htremain, htwr, htlen⟩ := htidle htst
  obtain ⟨hswalk, -⟩ := id hs
  obtain ⟨htwalk, -⟩ := id ht
  have hstale : SameButStale (s.clearOut.withInput []) (t.clearOut.withInput []) := by
    refine ⟨?_, fun a ha => absurd ha (by show ¬ a < s.wr; omega)⟩
    simp only [State.withInput, State.clearOut, hcfg, hverbose, hsst, htst, hsrun, htrun, hshold, hthold,
      hsremain, htremain, hswr, htwr, hslen, htlen, hswalk, htwalk]
  calc outputs bs s = outputs bs (s.clearOut.withInput []) := by rw [outputs_withInput, outputs_clearOut]
    _ = outputs bs (t.clearOut.withInput []) :=
      (hstale.outputs_eq (hs.withPins s.verbose [] Out.idle) (ht.withPins t.verbose [] Out.idle) bs).symm
    _ = outputs bs t := by rw [outputs_withInput, outputs_clearOut]

end Sys2Proof.Machine
end

section
/-! PROOFS. Streams of bytes from a state between steps: the fold of `State.afterByte`, the hold-budget, the preamble's
window, the payload's count, and the way back to IDLE (40_synchronizer.md section 7, 70_reset_and_hazards.md section 3). -/

namespace Sys2Proof.Machine

open Sys2Proof

/-! The fold. -/

/-- The state a stream of bytes leads to. -/
def State.afterBytes (bs : List Byte) (s : State) : State := bs.foldl (fun s b => s.afterByte b) s

@[simp] theorem State.afterBytes_nil (s : State) : s.afterBytes [] = s := rfl

@[simp] theorem State.afterBytes_cons (b : Byte) (bs : List Byte) (s : State) :
    s.afterBytes (b :: bs) = (s.afterByte b).afterBytes bs := rfl

theorem State.afterBytes_append (bs bs' : List Byte) (s : State) :
    s.afterBytes (bs ++ bs') = (s.afterBytes bs).afterBytes bs' := List.foldl_append

theorem State.Rest.afterBytes {s : State} (h : s.Rest) (bs : List Byte) : (s.afterBytes bs).Rest := by
  induction bs generalizing s with
  | nil => exact h
  | cons b bs ih => exact ih (h.afterByte b)

/-- Every stream is accepted. -/
theorem State.Rest.feed_eq {s : State} (h : s.Rest) (bs : List Byte) : feed bs s = .next (s.afterBytes bs) := by
  induction bs generalizing s with
  | nil => rfl
  | cons b bs ih => rw [feed, h.acceptByte_eq, andThen_next, ih (h.afterByte b), State.afterBytes_cons]

/-- Where a stream and one byte more lead. -/
theorem State.Rest.feed_concat_st {s : State} (h : s.Rest) (bs : List Byte) (b : Byte) :
    ∃ t, feed (bs ++ [b]) s = .next t ∧ t.st = nextSt (s.afterBytes bs) b := by
  refine ⟨_, h.feed_eq _, ?_⟩
  rw [State.afterBytes_append, State.afterBytes_cons, State.afterBytes_nil, (h.afterBytes bs).afterByte_st]

/-! The hold-budget (R64). -/

theorem State.afterByte_sync_lost {s : State} {b : Byte} (hst : s.st = .sync) (hb : b ≠ typeMdmf) (hhold : s.hold = 1) :
    s.afterByte b = s.idleWith (traceOut s.verbose [.syncLost]) := by
  simp only [State.afterByte, hst, if_neg hb, if_pos hhold]

theorem State.afterByte_sync_other {s : State} {b : Byte} (hst : s.st = .sync) (hb : b ≠ typeMdmf) (hhold : s.hold ≠ 1) :
    s.afterByte b = { s with st := .sync, hold := s.hold - 1, out := Out.idle } := by
  simp only [State.afterByte, hst, if_neg hb, if_neg hhold]

/-- Bytes that are not the type byte keep SYNC while the budget lasts; the one that spends it leads to IDLE. -/
theorem State.Rest.hold_window {s : State} (h : s.Rest) (hst : s.st = .sync) {bs : List Byte}
    (hbs : ∀ b ∈ bs, b ≠ 0x80) :
    (bs.length < s.hold → (s.afterBytes bs).st = .sync) ∧
      (bs.length = s.hold → (s.afterBytes bs).st = .idle ∧ (s.afterBytes bs).run = 0) := by
  induction bs generalizing s with
  | nil =>
    obtain ⟨-, hpos, -⟩ := h.syncRow hst
    exact ⟨fun _ => hst, fun hzero => by rw [List.length_nil] at hzero; omega⟩
  | cons b bs ih =>
    obtain ⟨hb, hrest⟩ := List.forall_mem_cons.mp hbs
    rw [List.length_cons, State.afterBytes_cons]
    by_cases hhold : s.hold = 1
    · rw [State.afterByte_sync_lost hst hb hhold]
      refine ⟨fun hlt => by omega, fun heq => ?_⟩
      obtain rfl : bs = [] := List.length_eq_zero_iff.mp (by omega)
      exact ⟨rfl, rfl⟩
    · have hnext := State.afterByte_sync_other hst hb hhold
      have hrec := ih (h.afterByte b) (by rw [hnext]) hrest
      have hspent : (s.afterByte b).hold = s.hold - 1 := by rw [hnext]
      obtain ⟨hpos, hcount⟩ := hrec
      exact ⟨fun hlt => hpos (by omega), fun heq => hcount (by omega)⟩

/-- Settles O45: the type byte after them is read in SYNC. -/
theorem holdWindow : Obligations.HoldWindow := by
  intro s bs h hst hbs
  obtain ⟨hkept, hspent⟩ := h.hold_window hst hbs
  refine ⟨fun hlt => ?_, fun heq => ⟨_, h.feed_eq bs, hspent heq⟩⟩
  obtain ⟨t, ht, htst⟩ := h.feed_concat_st bs 0x80
  refine ⟨t, ht, ?_⟩
  rw [htst, nextSt, hkept hlt]
  rfl

/-! The preamble's window (R79). -/

/-- How many marker bytes, modulo 32, have been counted: 0 to 15 in IDLE, 16 to 31 in SYNC. -/
def State.phase (s : State) : Nat := if s.st = .sync then 32 - s.hold else s.run

theorem State.phase_of_idle {s : State} (hst : s.st = .idle) : s.phase = s.run :=
  if_neg (by rw [hst]; exact nofun)

theorem State.phase_of_sync {s : State} (hst : s.st = .sync) : s.phase = 32 - s.hold := if_pos hst

/-- A marker byte goes one further in the cycle of 32: 16 are counted in IDLE, 16 spent in SYNC. -/
theorem State.Rest.afterByte_preamble {s : State} (h : s.Rest) (hst : s.st = .idle ∨ s.st = .sync) :
    ((s.afterByte preamble).st = .idle ∨ (s.afterByte preamble).st = .sync) ∧
      (s.afterByte preamble).phase = (s.phase + 1) % 32 := by
  obtain hst | hst := hst
  · obtain ⟨hidle, -⟩ := h.restRow
    obtain ⟨hrun, -⟩ := hidle hst
    rw [State.phase_of_idle hst]
    by_cases hlock : 16 ≤ s.run + 1
    · have hnext : s.afterByte preamble =
          { s with st := .sync, run := 0, hold := 16, out := traceOut s.verbose [.syncAcq] } := by
        simp only [State.afterByte, hst, if_true, if_pos hlock]
      have hphase : 32 - 16 = (s.run + 1) % 32 := by omega
      rw [hnext]
      exact ⟨.inr rfl, hphase⟩
    · have hnext : s.afterByte preamble = { s with st := .idle, run := s.run + 1, out := Out.idle } := by
        simp only [State.afterByte, hst, if_true, if_neg hlock]
      have hphase : s.run + 1 = (s.run + 1) % 32 := by omega
      rw [hnext]
      exact ⟨.inl rfl, hphase⟩
  · obtain ⟨-, hpos, hmax, -⟩ := h.syncRow hst
    rw [State.phase_of_sync hst]
    by_cases hhold : s.hold = 1
    · have hphase : 0 = (32 - s.hold + 1) % 32 := by omega
      rw [State.afterByte_sync_lost hst (by decide) hhold]
      exact ⟨.inl rfl, hphase⟩
    · have hphase : 32 - (s.hold - 1) = (32 - s.hold + 1) % 32 := by omega
      rw [State.afterByte_sync_other hst (by decide) hhold]
      exact ⟨.inr rfl, hphase⟩

theorem State.Rest.afterBytes_preamble {s : State} (h : s.Rest) (hst : s.st = .idle ∨ s.st = .sync) (k : Nat) :
    ((s.afterBytes (List.replicate k preamble)).st = .idle ∨ (s.afterBytes (List.replicate k preamble)).st = .sync) ∧
      (s.afterBytes (List.replicate k preamble)).phase = (s.phase + k) % 32 := by
  induction k generalizing s with
  | zero =>
    have hphase : s.phase = s.phase % 32 := by
      obtain hst | hst := hst
      · obtain ⟨hidle, -⟩ := h.restRow
        obtain ⟨hrun, -⟩ := hidle hst
        rw [State.phase_of_idle hst]
        omega
      · obtain ⟨-, hpos, -⟩ := h.syncRow hst
        rw [State.phase_of_sync hst]
        omega
    exact ⟨hst, hphase⟩
  | succ k ih =>
    obtain ⟨hst', hphase⟩ := h.afterByte_preamble hst
    obtain ⟨hst'', hphase'⟩ := ih (h.afterByte preamble) hst'
    rw [List.replicate_succ, State.afterBytes_cons]
    refine ⟨hst'', ?_⟩
    rw [hphase', hphase]
    omega

/-- The window of a preamble: after `k` marker bytes the block is in SYNC just where 16 to 31 modulo 32 are counted. -/
theorem State.Rest.afterBytes_preamble_st {s : State} (h : s.Rest) (hst : s.st = .idle) (k : Nat) :
    (s.afterBytes (List.replicate k preamble)).st = if 16 ≤ (s.run + k) % 32 then .sync else .idle := by
  obtain ⟨hst', hphase⟩ := h.afterBytes_preamble (.inl hst) k
  have hrest := h.afterBytes (List.replicate k preamble)
  rw [State.phase_of_idle hst] at hphase
  rw [← hphase]
  obtain hst' | hst' := hst'
  · obtain ⟨hidle, -⟩ := hrest.restRow
    obtain ⟨hrun, -⟩ := hidle hst'
    rw [hst', State.phase_of_idle hst', if_neg (by omega)]
  · obtain ⟨-, -, hmax, -⟩ := hrest.syncRow hst'
    rw [hst', State.phase_of_sync hst', if_pos (by omega)]

/-- Settles O44: the byte 0x80 leads on from SYNC alone. -/
theorem lockCondition : Obligations.LockCondition := by
  intro s N h hst
  obtain ⟨t, ht, htst⟩ := h.feed_concat_st (List.replicate N preamble) 0x80
  refine ⟨t, ht, ?_⟩
  rw [htst, nextSt, h.afterBytes_preamble_st hst N]
  by_cases hlock : 16 ≤ (s.run + N) % 32
  · rw [if_pos hlock, if_pos hlock]
    rfl
  · rw [if_neg hlock, if_neg hlock]
    exact if_neg fun ⟨hbyte, _⟩ => absurd hbyte (by decide)

/-! The payload's count (R67, R68, R73). -/

/-- The bytes stored one after the other from an address on. -/
def Memory.writeBytes (m : Memory) (a : Nat) : List Byte → Memory
  | [] => m
  | b :: bs => (m.write a b).writeBytes (a + 1) bs

theorem State.afterByte_readingData {s : State} (b : Byte) (hst : s.st = .readingData) :
    s.afterByte b =
      { s.stored b with
        remain := s.remain - 1, st := if s.remain = 1 then .readingChecksum else .readingData } := by
  simp only [State.afterByte, hst]

/-- Payload bytes are counted and stored one after the other; the last one leads to READING_CHECKSUM. -/
theorem State.Rest.afterBytes_readingData {s : State} (h : s.Rest) (hst : s.st = .readingData) {bs : List Byte}
    (hbs : bs.length ≤ s.remain) :
    (s.afterBytes bs).st = (if bs.length < s.remain then .readingData else .readingChecksum) ∧
      (s.afterBytes bs).len = s.len ∧ (s.afterBytes bs).buf = s.buf.writeBytes s.wr bs := by
  induction bs generalizing s with
  | nil =>
    obtain ⟨-, -, hpos, -⟩ := h.dataRow hst
    have hlt : ([] : List Byte).length < s.remain := hpos
    exact ⟨by rw [State.afterBytes_nil, hst, if_pos hlt], rfl, rfl⟩
  | cons b bs ih =>
    rw [List.length_cons] at hbs
    rw [List.length_cons, State.afterBytes_cons]
    have hnext := State.afterByte_readingData b hst
    by_cases hlast : s.remain = 1
    · obtain rfl : bs = [] := List.length_eq_zero_iff.mp (by omega)
      rw [State.afterBytes_nil, hnext, if_pos hlast, hlast]
      exact ⟨rfl, rfl, rfl⟩
    · rw [if_neg hlast] at hnext
      have hremain : (s.afterByte b).remain = s.remain - 1 := by rw [hnext]
      obtain ⟨hst', hlen, hbuf⟩ := ih (h.afterByte b) (by rw [hnext]) (by omega)
      have hiff : bs.length < s.remain - 1 ↔ bs.length + 1 < s.remain := by omega
      simp only [hremain, hiff] at hst'
      refine ⟨hst', ?_, ?_⟩
      · rw [hlen, hnext]
        rfl
      · rw [hbuf, hnext]
        rfl

theorem State.afterByte_st_of_readingChecksum {s : State} (b : Byte) (hst : s.st = .readingChecksum) :
    (s.afterByte b).st = .idle := by
  rw [State.afterByte_readingChecksum b hst, State.idleWith_st]

/-- Settles O43: the byte after the payload is the checksum byte. -/
theorem messageRunsToItsEnd : Obligations.MessageRunsToItsEnd := by
  intro s bs h hst hlen
  have htake : ∀ k, k ≤ s.remain → (bs.take k).length = k := fun k hk => List.length_take_of_le (by omega)
  refine ⟨fun k hk => ⟨_, h.feed_eq _, ?_⟩, _, h.feed_eq bs, ?_⟩
  · obtain ⟨hst', -⟩ := h.afterBytes_readingData hst (bs := bs.take k) (by rw [htake k hk]; exact hk)
    rw [hst', htake k hk]
  · obtain ⟨p, ck, rfl⟩ : ∃ p ck, bs = p ++ [ck] :=
      ⟨bs.dropLast, bs.getLast (List.ne_nil_of_length_pos (by omega)), (List.dropLast_append_getLast _).symm⟩
    have hp : p.length = s.remain := by simpa using hlen
    obtain ⟨hst', -⟩ := h.afterBytes_readingData hst hp.le
    rw [if_neg (by omega)] at hst'
    rw [State.afterBytes_append, State.afterBytes_cons, State.afterBytes_nil]
    exact State.afterByte_st_of_readingChecksum ck hst'

/-! The way back to IDLE (R78). -/

/-- How many bytes more a locked state takes at most until the block is in IDLE again. -/
def State.budget (s : State) : Nat :=
  match s.st with
  | .idle => 0
  | .sync => s.hold + 1 + s.cfg.maxLen + 1
  | .readingLength => 1 + s.cfg.maxLen + 1
  | .readingData => s.remain + 1
  | .readingChecksum => 1

/-- Each byte of a locked state leads to IDLE or takes one from the budget. -/
theorem State.Rest.budget_afterByte {s : State} (h : s.Rest) (hst : s.st ≠ .idle) (b : Byte) :
    (s.afterByte b).st = .idle ∨ ((s.afterByte b).st ≠ .idle ∧ (s.afterByte b).budget < s.budget) := by
  cases hs : s.st with
  | idle => exact absurd hs hst
  | sync =>
    obtain ⟨-, hpos, -⟩ := h.syncRow hs
    by_cases hb : b = typeMdmf
    · have hlt : 1 + s.cfg.maxLen + 1 < s.hold + 1 + s.cfg.maxLen + 1 := by omega
      simp only [State.afterByte, hs, if_pos hb, State.budget]
      exact .inr ⟨nofun, hlt⟩
    · by_cases hhold : s.hold = 1
      · rw [State.afterByte_sync_lost hs hb hhold]
        exact .inl rfl
      · have hlt : s.hold - 1 + 1 + s.cfg.maxLen + 1 < s.hold + 1 + s.cfg.maxLen + 1 := by omega
        rw [State.afterByte_sync_other hs hb hhold]
        simp only [State.budget, hs]
        exact .inr ⟨nofun, hlt⟩
  | readingLength =>
    simp only [State.afterByte, hs]
    split_ifs with hreject
    · exact .inl rfl
    · obtain ⟨-, hmax⟩ := not_or.mp hreject
      have hlt : b.toNat + 1 < 1 + s.cfg.maxLen + 1 := by omega
      simp only [State.budget, hs]
      exact .inr ⟨nofun, hlt⟩
  | readingData =>
    obtain ⟨-, -, hpos, -⟩ := h.dataRow hs
    rw [State.afterByte_readingData b hs]
    by_cases hlast : s.remain = 1
    · have hlt : 1 < s.remain + 1 := by omega
      simp only [if_pos hlast, State.budget, hs]
      exact .inr ⟨nofun, hlt⟩
    · have hlt : s.remain - 1 + 1 < s.remain + 1 := by omega
      simp only [if_neg hlast, State.budget, hs]
      exact .inr ⟨nofun, hlt⟩
  | readingChecksum => exact .inl (State.afterByte_st_of_readingChecksum b hs)

theorem State.budget_pos {s : State} (hst : s.st ≠ .idle) : 0 < s.budget := by
  unfold State.budget
  split
  · contradiction
  all_goals exact Nat.succ_pos _

/-- A stream no shorter than the budget leads through IDLE. -/
theorem State.Rest.exists_idle_prefix {s : State} (h : s.Rest) (hst : s.st ≠ .idle) {bs : List Byte}
    (hbs : s.budget ≤ bs.length) :
    ∃ k, 1 ≤ k ∧ k ≤ bs.length ∧ (s.afterBytes (bs.take k)).st = .idle := by
  induction bs generalizing s with
  | nil => exact absurd hbs (Nat.not_le.mpr (State.budget_pos hst))
  | cons b bs ih =>
    rw [List.length_cons] at hbs
    obtain hidle | ⟨hlocked, hlt⟩ := h.budget_afterByte hst b
    · exact ⟨1, le_rfl, Nat.le_add_left 1 _, hidle⟩
    · obtain ⟨k, hk, hle, hidle⟩ := ih (h.afterByte b) hlocked (by omega)
      exact ⟨k + 1, Nat.le_add_left 1 k, Nat.succ_le_succ hle, hidle⟩

theorem State.Rest.budget_le {s : State} (h : s.Rest) : s.budget ≤ 16 + 1 + s.cfg.maxLen + 1 := by
  cases hs : s.st with
  | idle => simp only [State.budget, hs, Nat.zero_le]
  | sync =>
    obtain ⟨-, -, hmax, -⟩ := h.syncRow hs
    simp only [State.budget, hs]
    omega
  | readingLength | readingChecksum =>
    simp only [State.budget, hs]
    omega
  | readingData =>
    obtain ⟨-, -, -, hle, -, -, hmax, -⟩ := h.dataRow hs
    simp only [State.budget, hs]
    omega

/-- Settles O42: the budget of a state between steps is within R78's bound. -/
theorem lockedStateIsLeft : Obligations.LockedStateIsLeft := by
  intro s bs h hst hlen
  obtain ⟨k, hk, hle, hidle⟩ := h.exists_idle_prefix hst (bs := bs) (by rw [hlen]; exact h.budget_le)
  exact ⟨k, _, hk, hle, h.feed_eq _, hidle⟩

end Sys2Proof.Machine
end

section
/-! PROOFS. Whole messages. From SYNC the bytes of a message (30_encoding.md R46) are stored one after the other from index 0 on
and end in IDLE with the output of the checksum byte; a payload of whole fields and padding splits into those fields
(R47, R58), so with the sender's checksum (R49) the output is their record. -/

namespace Sys2Proof.Machine

open Sys2Proof

/-! Bytes stored one after the other. -/

theorem Memory.read_writeBytes {m : Memory} (h : m.wf) (a : Nat) (bs : List Byte) (i : Nat) :
    (m.writeBytes a bs).read i = if a ≤ i ∧ i < a + bs.length then bs[i - a]? else m.read i := by
  induction bs generalizing m a with
  | nil => rw [Memory.writeBytes, if_neg (by rw [List.length_nil]; omega)]
  | cons b bs ih =>
    rw [Memory.writeBytes, ih (Memory.wf_write h a b), Memory.read_write h]
    by_cases hi : i = a
    · subst hi
      simp
    · obtain hlt | hgt := Nat.lt_or_gt_of_ne hi
      · rw [if_neg (by omega), if_neg hi, if_neg (by omega)]
      · have hidx : i - a = i - (a + 1) + 1 := by omega
        have hiff : (a + 1 ≤ i ∧ i < a + 1 + bs.length) ↔ (a ≤ i ∧ i < a + (b :: bs).length) := by
          rw [List.length_cons]
          omega
        rw [if_neg hi, hidx, List.getElem?_cons_succ]
        simp only [hiff]

theorem Memory.writeBytes_append (m : Memory) (a : Nat) (bs bs' : List Byte) :
    m.writeBytes a (bs ++ bs') = (m.writeBytes a bs).writeBytes (a + bs.length) bs' := by
  induction bs generalizing m a with
  | nil => rfl
  | cons b bs ih =>
    rw [List.cons_append, Memory.writeBytes, ih, Memory.writeBytes, List.length_cons, Nat.add_right_comm, Nat.add_assoc]

/-- Cells that hold the bytes of a list read as that list. -/
theorem State.cells_eq_of_read {s : State} {a : Nat} {bs : List Byte}
    (h : ∀ i, i < bs.length → s.buf.read (a + i) = bs[i]?) : s.cells a bs.length = bs := by
  refine List.ext_getElem (State.cells_length _ _ _) fun i _ hi => ?_
  simp only [State.cells, List.getElem_map, List.getElem_range, h i hi, List.getElem?_eq_getElem hi, Option.getD_some]

/-! What every byte keeps. -/

theorem State.afterByte_keeps (s : State) (b : Byte) :
    (s.afterByte b).cfg = s.cfg ∧ (s.afterByte b).verbose = s.verbose ∧ (s.afterByte b).input = s.input := by
  cases hst : s.st with
  | idle | sync | readingLength =>
    simp only [State.afterByte, hst]
    split_ifs <;> exact ⟨rfl, rfl, rfl⟩
  | readingData | readingChecksum =>
    simp only [State.afterByte, hst]
    exact ⟨rfl, rfl, rfl⟩

theorem State.afterBytes_keeps (bs : List Byte) (s : State) :
    (s.afterBytes bs).cfg = s.cfg ∧ (s.afterBytes bs).verbose = s.verbose ∧ (s.afterBytes bs).input = s.input := by
  induction bs generalizing s with
  | nil => exact ⟨rfl, rfl, rfl⟩
  | cons b bs ih =>
    obtain ⟨hcfg, hverbose, hinput⟩ := ih (s.afterByte b)
    obtain ⟨hcfg', hverbose', hinput'⟩ := s.afterByte_keeps b
    exact ⟨hcfg.trans hcfg', hverbose.trans hverbose', hinput.trans hinput'⟩

/-! A message from SYNC. -/

/-- The bytes of a message but for its checksum byte. -/
def frameBody (p : List Byte) : List Byte := typeMdmf :: BitVec.ofNat 8 p.length :: p

theorem frameCk_eq (p : List Byte) (ck : Byte) : frameCk p ck = frameBody p ++ [ck] := rfl

theorem State.afterByte_readingLength {s : State} {b : Byte} (hst : s.st = .readingLength)
    (haccept : ¬ (b = 0x00 ∨ s.cfg.maxLen < b.toNat)) :
    s.afterByte b = { s.stored b with len := b.toNat, remain := b.toNat, st := .readingData } := by
  simp only [State.afterByte, hst, if_neg haccept]

/-- The bytes before the checksum byte lead to READING_CHECKSUM with the message stored. -/
theorem State.Rest.afterBytes_frameBody {s : State} (h : s.Rest) (hst : s.st = .sync) {p : List Byte}
    (hpos : 1 ≤ p.length) (hmax : p.length ≤ s.cfg.maxLen) :
    (s.afterBytes (frameBody p)).st = .readingChecksum ∧ (s.afterBytes (frameBody p)).len = p.length ∧
      (s.afterBytes (frameBody p)).buf = s.buf.writeBytes 0 (frameBody p) := by
  obtain ⟨hcfg, -⟩ := h.bufferInv
  obtain ⟨-, -, -, -, hwr, -⟩ := h.syncRow hst
  have hlen := toNat_ofNat_length hcfg hmax
  have htype : s.afterByte typeMdmf =
      { s.stored typeMdmf with hold := 0, st := .readingLength, out := traceOut s.verbose [.typeByte] } := by
    simp only [State.afterByte, hst, if_true]
  have haccept : ¬ (BitVec.ofNat 8 p.length = 0x00 ∨ s.cfg.maxLen < (BitVec.ofNat 8 p.length).toNat) := by
    rw [hlen, ← BitVec.toNat_inj, hlen]
    show ¬ (p.length = 0 ∨ _)
    omega
  have hlength : (s.afterByte typeMdmf).afterByte (BitVec.ofNat 8 p.length) =
      { (s.afterByte typeMdmf).stored (BitVec.ofNat 8 p.length) with
        len := p.length, remain := p.length, st := .readingData } := by
    have hcfg' : (s.afterByte typeMdmf).cfg = s.cfg := by rw [htype]; rfl
    rw [State.afterByte_readingLength (by rw [htype]) (by rw [hcfg']; exact haccept), hlen]
  have hrest := (h.afterByte typeMdmf).afterByte (BitVec.ofNat 8 p.length)
  have hremain : ((s.afterByte typeMdmf).afterByte (BitVec.ofNat 8 p.length)).remain = p.length := by rw [hlength]
  obtain ⟨hst', hlen', hbuf⟩ := hrest.afterBytes_readingData (by rw [hlength]) hremain.ge
  rw [hremain, if_neg (Nat.lt_irrefl _)] at hst'
  refine ⟨hst', hlen'.trans (by rw [hlength]), hbuf.trans ?_⟩
  rw [hlength, htype]
  show ((s.buf.write s.wr _).write (s.wr + 1) _).writeBytes (s.wr + 1 + 1) p = _
  rw [hwr]
  rfl

/-- A message from SYNC ends in IDLE, its bytes in the buffer from index 0 on, with the output of its payload and of the
sum of its bytes. -/
theorem State.Rest.afterBytes_frameCk {s : State} (h : s.Rest) (hst : s.st = .sync) {p : List Byte}
    (hpos : 1 ≤ p.length) (hmax : p.length ≤ s.cfg.maxLen) (ck : Byte) :
    ∃ m, s.afterBytes (frameCk p ck) =
        State.idleWith { s with buf := m } (messageOut s.verbose (BitVec.ofNat 8 (byteSum (frameCk p ck))) p) ∧
      ∀ a, m.read a = if a < p.length + 3 then (frameCk p ck)[a]? else s.buf.read a := by
  obtain ⟨hst', hlen, hbuf⟩ := h.afterBytes_frameBody hst hpos hmax
  obtain ⟨hcfg, hverbose, hinput⟩ := s.afterBytes_keeps (frameBody p)
  obtain ⟨-, -, -, hwr, -⟩ := (h.afterBytes (frameBody p)).checksumRow hst'
  have hbody : (frameBody p).length = p.length + 2 := rfl
  have hread : ∀ i, i < (frameBody p).length → (s.afterBytes (frameBody p)).buf.read (0 + i) = (frameBody p)[i]? := by
    intro i hi
    rw [hbuf, Memory.read_writeBytes h.buf_wf, if_pos (by omega), Nat.zero_add, Nat.sub_zero]
  have hcells : (s.afterBytes (frameBody p)).cells 0 (p.length + 2) = frameBody p := State.cells_eq_of_read hread
  have hpayload : (s.afterBytes (frameBody p)).payload = p := by
    have hdrop := (s.afterBytes (frameBody p)).cells_drop 0 (p.length + 2) 2 (Nat.le_add_left 2 _)
    rw [hcells] at hdrop
    rw [State.payload, hlen]
    exact hdrop.symm
  have hstored : (s.afterBytes (frameBody p)).buf.write (s.afterBytes (frameBody p)).wr ck =
      s.buf.writeBytes 0 (frameCk p ck) := by
    rw [hwr, hlen, hbuf, frameCk_eq, Memory.writeBytes_append, hbody, Nat.zero_add]
    rfl
  refine ⟨s.buf.writeBytes 0 (frameCk p ck), ?_, fun a => ?_⟩
  · rw [frameCk_eq, State.afterBytes_append, State.afterBytes_cons, State.afterBytes_nil,
      State.afterByte_readingChecksum ck hst', hlen, hcells, hpayload, hverbose]
    simp only [State.idleWith, State.stored, hstored, hcfg, hverbose, hinput, frameCk_eq]
  · rw [Memory.read_writeBytes h.buf_wf, length_frameCk, Nat.zero_add, Nat.sub_zero]
    simp only [Nat.zero_le, true_and]

/-- Settles O18: the sum of the message is that of its four parts. -/
theorem frameFromSyncIsDecoded : Obligations.FrameFromSyncIsDecoded := by
  intro s p ck h hst hpos hmax
  have hsum : BitVec.ofNat 8 (byteSum (frameCk p ck)) =
      BitVec.ofNat 8 (0x80 + p.length + byteSum p + ck.toNat) := by
    have htype : typeMdmf.toNat = 0x80 := rfl
    rw [← BitVec.toNat_inj, BitVec.toNat_ofNat, BitVec.toNat_ofNat, byteSum_frameCk, senderSum, htype, byteSum]
    omega
  obtain ⟨m, hm, hread⟩ := h.afterBytes_frameCk hst hpos hmax ck
  rw [hsum] at hm
  exact ⟨m, (h.feed_eq _).trans (congrArg Host.Outcome.next hm), hread⟩

/-! A payload of whole fields. -/

/-- The bytes of a list of fields and padding. -/
abbrev fieldBytes (fs : List (Byte × List Byte)) (pad : List Byte) : List Byte :=
  fs.flatMap (fun f => tlv f.1 f.2) ++ pad

theorem fieldBytes_cons (tag : Byte) (v : List Byte) (fs : List (Byte × List Byte)) (pad : List Byte) :
    fieldBytes ((tag, v) :: fs) pad = tag :: BitVec.ofNat 8 v.length :: (v ++ fieldBytes fs pad) := by
  simp [fieldBytes, tlv]

/-- After the header of a field stands a byte of its value, of a later field or of the padding. -/
theorem value_append_fieldBytes_ne_nil {tag : Byte} {v : List Byte} {fs : List (Byte × List Byte)} {pad : List Byte}
    (hlast : pad ≠ [] ∨ ∀ f ∈ ((tag, v) :: fs).getLast?, f.2 ≠ []) : v ++ fieldBytes fs pad ≠ [] := by
  intro hnil
  obtain ⟨hv, hrest⟩ := List.append_eq_nil_iff.mp hnil
  cases fs with
  | nil => exact hlast.elim (fun hpad => hpad hrest) fun hne => hne (tag, v) rfl hv
  | cons f fs =>
    rw [fieldBytes_cons] at hrest
    exact List.cons_ne_nil _ _ hrest

/-- The fields split off are the fields the payload was made of. -/
theorem splitFields_fieldBytes {pad : List Byte} (hpad : pad.length ≤ 2) {fs : List (Byte × List Byte)}
    (hlast : pad ≠ [] ∨ ∀ f ∈ fs.getLast?, f.2 ≠ []) {k : Nat} (hk : (fieldBytes fs pad).length ≤ k) (h255 : k ≤ 255) :
    splitFields k (fieldBytes fs pad) = { good := fs, bad := none } := by
  induction fs generalizing k with
  | nil => exact splitFields_padding k hpad
  | cons f fs ih =>
    obtain ⟨tag, v⟩ := f
    have hlast' : pad ≠ [] ∨ ∀ f ∈ fs.getLast?, f.2 ≠ [] := by
      refine hlast.imp_right fun hne f hf => hne f ?_
      rw [List.getLast?_cons, Option.mem_def.mp hf]
      rfl
    rw [fieldBytes_cons] at hk ⊢
    rw [List.length_cons, List.length_cons, List.length_append] at hk
    obtain ⟨k, rfl⟩ : ∃ j, k = j + 1 := ⟨k - 1, by omega⟩
    have hn : (BitVec.ofNat 8 v.length).toNat = v.length := by
      rw [BitVec.toNat_ofNat]
      omega
    have hle : v.length ≤ (v ++ fieldBytes fs pad).length := by simp
    rw [splitFields_field k tag (value_append_fieldBytes_ne_nil hlast) (by rwa [hn]), hn, List.drop_left,
      List.take_left, ih hlast' (by omega) (by omega)]

/-- A message with the sender's checksum, from SYNC. -/
theorem State.Rest.afterBytes_frame {s : State} (h : s.Rest) (hst : s.st = .sync) {p : List Byte}
    (hpos : 1 ≤ p.length) (hmax : p.length ≤ s.cfg.maxLen) :
    (s.afterBytes (frame p)).st = .idle ∧ (s.afterBytes (frame p)).out = messageOut s.verbose 0x00 p := by
  have hsum : byteSum (frameCk p (senderChecksum p)) = 0 := senderChecksumSumsToZero p
  obtain ⟨m, hm, -⟩ := h.afterBytes_frameCk hst hpos hmax (senderChecksum p)
  rw [hsum] at hm
  rw [frame, hm]
  exact ⟨rfl, rfl⟩

/-- Settles O20: the preamble leads to SYNC, and the walk of the payload finds its fields. -/
theorem wellFormedMessageYieldsRecord : Obligations.WellFormedMessageYieldsRecord := by
  intro s k fs pad h hst hrun hk16 hk31 hpad hlast hpos hmax
  obtain ⟨⟨-, h255⟩, -⟩ := h.bufferInv
  have hsync : (s.afterBytes (pre k)).st = .sync := by
    rw [pre, h.afterBytes_preamble_st hst k, if_pos (by omega)]
  obtain ⟨hcfg, -⟩ := s.afterBytes_keeps (pre k)
  have hfields : fieldsOf (fieldBytes fs pad) = { good := fs, bad := none } :=
    splitFields_fieldBytes hpad hlast le_rfl (hmax.trans h255)
  obtain ⟨hidle, hout⟩ := (h.afterBytes (pre k)).afterBytes_frame hsync hpos (by rwa [hcfg])
  rw [messageOut_zero, hfields] at hout
  refine ⟨_, h.feed_eq _, ?_⟩
  rw [State.afterBytes_append, hout]
  exact ⟨hidle, congrArg some (applyFields_empty fs), rfl⟩

end Sys2Proof.Machine
end
